-- ==== Sys2Proof/Word.lean ====
section
/-! DEFINITION. The word types of the SCE: bytes, byte strings (00_scope.md R6) and the 32-bit words of the
host-visible registers and of a command (10_state.md section 2, 30_encoding.md R100). -/

namespace Sys2Proof

/-- A byte, 0 to 255. -/
abbrev Byte := BitVec 8

/-- A byte string: a finite sequence of bytes, indexed from 0 (00_scope.md R6). -/
abbrev Bytes := List Byte

/-- A 32-bit word: a host-visible register, a command word, a ChaCha word. -/
abbrev U32 := BitVec 32

/-- A byte register of fixed width `n` (KEY, NONCE, CHAIN ...). -/
abbrev Reg (n : Nat) := Vector Byte n

end Sys2Proof
end

