-- ==== Sys2Proof/Machine/Bytes.lean ====
section
/-! DEFINITION. Byte strings: slices, the two byte-to-integer conversions, XOR, padding to 16, blocks, and the
registers that hold byte strings (00_scope.md R6 to R8, 45_gcm.md R251). -/

namespace Sys2Proof.Machine

open Sys2Proof

/-- n zero bytes, `zeros(n)` (00_scope.md R6). -/
def zeros (n : Nat) : Bytes := List.replicate n 0

/-- b[i..j), for a byte string and for a sequence of words (00_scope.md R6). -/
def slice {α : Type} (b : List α) (i j : Nat) : List α := (b.drop i).take (j - i)

/-- Byte i of b; 0 beyond its end. -/
def byteAt (b : Bytes) (i : Nat) : Byte := b.getD i 0

/-- b XOR c, bytewise, for strings of equal length (00_scope.md R6). -/
def xorBytes (b c : Bytes) : Bytes := List.zipWith (· ^^^ ·) b c

/-- LE(b), the little-endian value (00_scope.md R8). -/
def le : Bytes → Nat
  | [] => 0
  | x :: b => x.toNat + 256 * le b

/-- BE(b), the big-endian value (00_scope.md R8). -/
def be (b : Bytes) : Nat := le b.reverse

/-- LEn_bytes(v), the n-byte little-endian encoding of v mod 256^n (00_scope.md R8). -/
def leBytes : Nat → Nat → Bytes
  | 0, _ => []
  | n + 1, v => BitVec.ofNat 8 v :: leBytes n (v / 256)

/-- BEn_bytes(v), the n-byte big-endian encoding of v mod 256^n (00_scope.md R8). -/
def beBytes (n v : Nat) : Bytes := (leBytes n v).reverse

/-- A byte string as an n-byte register: its first n bytes, then zero bytes. -/
def toReg (n : Nat) (b : Bytes) : Reg n :=
  Vector.mk (Array.mk ((b ++ List.replicate n 0).take n)) (by simp)

/-- The first k blocks of 16 bytes of b. -/
def blocks16 (k : Nat) (b : Bytes) : List Bytes := (List.range k).map fun i => slice b (16 * i) (16 * i + 16)

/-- Pad16(d): zero bytes up to a multiple of 16 (45_gcm.md R251). -/
def pad16 (d : Bytes) : Bytes := d ++ zeros ((16 - d.length % 16) % 16)

/-- ConstEq(a, b) for two strings of equal length: true iff every byte is equal; all bytes are examined
(60_exceptions.md R335). -/
def constEq (a b : Bytes) : Bool := (xorBytes a b).foldl (· ||| ·) 0 == 0

/-- n consecutive bytes of a keystream from index k on: ks[k..k+n). -/
def keystreamSlice (ks : Nat → Byte) (k n : Nat) : Bytes := (List.range n).map fun i => ks (k + i)

end Sys2Proof.Machine
end

