-- ==== Sys2Proof/Machine/AesCipher.lean ====
section
/-! DEFINITION. The AES functions (41_aes.md R150 to R154, R156 to R159, R162 and the recurrence of R155). An AES
state is its 16-byte string: s[r][c] is byte r + 4c (R150). -/

namespace Sys2Proof.Machine

open Sys2Proof

/-- xtime(b) (41_aes.md R151). -/
def xtime (b : Byte) : Byte := (b <<< 1) ^^^ (if b.getLsbD 7 then 0x1B else 0)

/-- The product a • b in GF(2^8): the XOR over the set bits i of b of xtime^i(a) (41_aes.md R151). -/
def gfMul8 (a b : Byte) : Byte :=
  (List.range 8).foldl (fun acc i => if b.getLsbD i then acc ^^^ xtime^[i] a else acc) 0

/-- The first and the last eight rows of the S-box table (41_aes.md R152). -/
def sboxRowsLow : Bytes :=
  [ 0x63, 0x7c, 0x77, 0x7b, 0xf2, 0x6b, 0x6f, 0xc5, 0x30, 0x01, 0x67, 0x2b, 0xfe, 0xd7, 0xab, 0x76,
    0xca, 0x82, 0xc9, 0x7d, 0xfa, 0x59, 0x47, 0xf0, 0xad, 0xd4, 0xa2, 0xaf, 0x9c, 0xa4, 0x72, 0xc0,
    0xb7, 0xfd, 0x93, 0x26, 0x36, 0x3f, 0xf7, 0xcc, 0x34, 0xa5, 0xe5, 0xf1, 0x71, 0xd8, 0x31, 0x15,
    0x04, 0xc7, 0x23, 0xc3, 0x18, 0x96, 0x05, 0x9a, 0x07, 0x12, 0x80, 0xe2, 0xeb, 0x27, 0xb2, 0x75,
    0x09, 0x83, 0x2c, 0x1a, 0x1b, 0x6e, 0x5a, 0xa0, 0x52, 0x3b, 0xd6, 0xb3, 0x29, 0xe3, 0x2f, 0x84,
    0x53, 0xd1, 0x00, 0xed, 0x20, 0xfc, 0xb1, 0x5b, 0x6a, 0xcb, 0xbe, 0x39, 0x4a, 0x4c, 0x58, 0xcf,
    0xd0, 0xef, 0xaa, 0xfb, 0x43, 0x4d, 0x33, 0x85, 0x45, 0xf9, 0x02, 0x7f, 0x50, 0x3c, 0x9f, 0xa8,
    0x51, 0xa3, 0x40, 0x8f, 0x92, 0x9d, 0x38, 0xf5, 0xbc, 0xb6, 0xda, 0x21, 0x10, 0xff, 0xf3, 0xd2 ]

def sboxRowsHigh : Bytes :=
  [ 0xcd, 0x0c, 0x13, 0xec, 0x5f, 0x97, 0x44, 0x17, 0xc4, 0xa7, 0x7e, 0x3d, 0x64, 0x5d, 0x19, 0x73,
    0x60, 0x81, 0x4f, 0xdc, 0x22, 0x2a, 0x90, 0x88, 0x46, 0xee, 0xb8, 0x14, 0xde, 0x5e, 0x0b, 0xdb,
    0xe0, 0x32, 0x3a, 0x0a, 0x49, 0x06, 0x24, 0x5c, 0xc2, 0xd3, 0xac, 0x62, 0x91, 0x95, 0xe4, 0x79,
    0xe7, 0xc8, 0x37, 0x6d, 0x8d, 0xd5, 0x4e, 0xa9, 0x6c, 0x56, 0xf4, 0xea, 0x65, 0x7a, 0xae, 0x08,
    0xba, 0x78, 0x25, 0x2e, 0x1c, 0xa6, 0xb4, 0xc6, 0xe8, 0xdd, 0x74, 0x1f, 0x4b, 0xbd, 0x8b, 0x8a,
    0x70, 0x3e, 0xb5, 0x66, 0x48, 0x03, 0xf6, 0x0e, 0x61, 0x35, 0x57, 0xb9, 0x86, 0xc1, 0x1d, 0x9e,
    0xe1, 0xf8, 0x98, 0x11, 0x69, 0xd9, 0x8e, 0x94, 0x9b, 0x1e, 0x87, 0xe9, 0xce, 0x55, 0x28, 0xdf,
    0x8c, 0xa1, 0x89, 0x0d, 0xbf, 0xe6, 0x42, 0x68, 0x41, 0x99, 0x2d, 0x0f, 0xb0, 0x54, 0xbb, 0x16 ]

def sboxTable : Bytes := sboxRowsLow ++ sboxRowsHigh

/-- S(x): the table of 41_aes.md R152, row x[7:4] and column x[3:0]. -/
def sbox (x : Byte) : Byte := byteAt sboxTable x.toNat

/-- The first and the last eight rows of the inverse S-box table (41_aes.md R153). -/
def invSboxRowsLow : Bytes :=
  [ 0x52, 0x09, 0x6a, 0xd5, 0x30, 0x36, 0xa5, 0x38, 0xbf, 0x40, 0xa3, 0x9e, 0x81, 0xf3, 0xd7, 0xfb,
    0x7c, 0xe3, 0x39, 0x82, 0x9b, 0x2f, 0xff, 0x87, 0x34, 0x8e, 0x43, 0x44, 0xc4, 0xde, 0xe9, 0xcb,
    0x54, 0x7b, 0x94, 0x32, 0xa6, 0xc2, 0x23, 0x3d, 0xee, 0x4c, 0x95, 0x0b, 0x42, 0xfa, 0xc3, 0x4e,
    0x08, 0x2e, 0xa1, 0x66, 0x28, 0xd9, 0x24, 0xb2, 0x76, 0x5b, 0xa2, 0x49, 0x6d, 0x8b, 0xd1, 0x25,
    0x72, 0xf8, 0xf6, 0x64, 0x86, 0x68, 0x98, 0x16, 0xd4, 0xa4, 0x5c, 0xcc, 0x5d, 0x65, 0xb6, 0x92,
    0x6c, 0x70, 0x48, 0x50, 0xfd, 0xed, 0xb9, 0xda, 0x5e, 0x15, 0x46, 0x57, 0xa7, 0x8d, 0x9d, 0x84,
    0x90, 0xd8, 0xab, 0x00, 0x8c, 0xbc, 0xd3, 0x0a, 0xf7, 0xe4, 0x58, 0x05, 0xb8, 0xb3, 0x45, 0x06,
    0xd0, 0x2c, 0x1e, 0x8f, 0xca, 0x3f, 0x0f, 0x02, 0xc1, 0xaf, 0xbd, 0x03, 0x01, 0x13, 0x8a, 0x6b ]

def invSboxRowsHigh : Bytes :=
  [ 0x3a, 0x91, 0x11, 0x41, 0x4f, 0x67, 0xdc, 0xea, 0x97, 0xf2, 0xcf, 0xce, 0xf0, 0xb4, 0xe6, 0x73,
    0x96, 0xac, 0x74, 0x22, 0xe7, 0xad, 0x35, 0x85, 0xe2, 0xf9, 0x37, 0xe8, 0x1c, 0x75, 0xdf, 0x6e,
    0x47, 0xf1, 0x1a, 0x71, 0x1d, 0x29, 0xc5, 0x89, 0x6f, 0xb7, 0x62, 0x0e, 0xaa, 0x18, 0xbe, 0x1b,
    0xfc, 0x56, 0x3e, 0x4b, 0xc6, 0xd2, 0x79, 0x20, 0x9a, 0xdb, 0xc0, 0xfe, 0x78, 0xcd, 0x5a, 0xf4,
    0x1f, 0xdd, 0xa8, 0x33, 0x88, 0x07, 0xc7, 0x31, 0xb1, 0x12, 0x10, 0x59, 0x27, 0x80, 0xec, 0x5f,
    0x60, 0x51, 0x7f, 0xa9, 0x19, 0xb5, 0x4a, 0x0d, 0x2d, 0xe5, 0x7a, 0x9f, 0x93, 0xc9, 0x9c, 0xef,
    0xa0, 0xe0, 0x3b, 0x4d, 0xae, 0x2a, 0xf5, 0xb0, 0xc8, 0xeb, 0xbb, 0x3c, 0x83, 0x53, 0x99, 0x61,
    0x17, 0x2b, 0x04, 0x7e, 0xba, 0x77, 0xd6, 0x26, 0xe1, 0x69, 0x14, 0x63, 0x55, 0x21, 0x0c, 0x7d ]

def invSboxTable : Bytes := invSboxRowsLow ++ invSboxRowsHigh

/-- InvS(x): the table of 41_aes.md R153. -/
def invSbox (x : Byte) : Byte := byteAt invSboxTable x.toNat

/-- Rcon[j] (41_aes.md R154). -/
def rcon (j : Nat) : Bytes := [xtime^[j - 1] 1, 0, 0, 0]

/-- SubWord(w) (41_aes.md R154). -/
def subWord (w : Bytes) : Bytes := w.map sbox

/-- RotWord(w) (41_aes.md R154). -/
def rotWord (w : Bytes) : Bytes := w.drop 1 ++ w.take 1

/-- The next word of the key schedule, w[i] from the words before it, i being their number (41_aes.md R155). -/
def nextKeyWord (nk : Nat) (w : List Bytes) : Bytes :=
  let i := w.length
  let t := w.getD (i - 1) []
  let t' :=
    if i % nk = 0 then xorBytes (subWord (rotWord t)) (rcon (i / nk))
    else if nk = 8 ∧ i % 8 = 4 then subWord t
    else t
  xorBytes (w.getD (i - nk) []) t'

/-- `steps` more words of the key schedule (41_aes.md R155). -/
def extendKeyWords (nk : Nat) : Nat → List Bytes → List Bytes
  | 0, w => w
  | steps + 1, w => extendKeyWords nk steps (w ++ [nextKeyWord nk w])

/-- The first Nk words: w[i] = KEY[4i .. 4i+4) (41_aes.md R155). -/
def keyWords (nk : Nat) (key : Bytes) : List Bytes := (List.range nk).map fun i => slice key (4 * i) (4 * i + 4)

/-- The schedule w[0 .. 4(Nr+1)) of a key of 4 Nk bytes, with Nr = Nk + 6 (41_aes.md R155, R162). -/
def keyExpansion (nk : Nat) (key : Bytes) : List Bytes :=
  extendKeyWords nk (4 * (nk + 6 + 1) - nk) (keyWords nk key)

/-- A 16-byte state from its bytes by position r + 4c (41_aes.md R150). -/
def aesState (f : Nat → Byte) : Bytes := (List.range 16).map f

/-- s[r][c], with the column taken modulo 4 (41_aes.md R150). -/
def cell (s : Bytes) (r c : Nat) : Byte := byteAt s (r % 4 + 4 * (c % 4))

/-- SubBytes and InvSubBytes (41_aes.md R156). -/
def subBytes (s : Bytes) : Bytes := s.map sbox
def invSubBytes (s : Bytes) : Bytes := s.map invSbox

/-- ShiftRows: s'[r][c] = s[r][(c + r) mod 4] (41_aes.md R157). -/
def shiftRows (s : Bytes) : Bytes := aesState fun k => cell s (k % 4) (k / 4 + k % 4)

/-- InvShiftRows: s'[r][(c + r) mod 4] = s[r][c], so that s'[r][c] = s[r][(c - r) mod 4] (41_aes.md R157). -/
def invShiftRows (s : Bytes) : Bytes := aesState fun k => cell s (k % 4) (k / 4 + 4 - k % 4)

/-- One column map with the coefficients c0, c1, c2, c3 of a_r, a_(r+1), a_(r+2), a_(r+3) (41_aes.md R158). -/
def mixWith (c0 c1 c2 c3 : Byte) (s : Bytes) : Bytes :=
  aesState fun k =>
    gfMul8 c0 (cell s k (k / 4)) ^^^ gfMul8 c1 (cell s (k + 1) (k / 4)) ^^^
      gfMul8 c2 (cell s (k + 2) (k / 4)) ^^^ gfMul8 c3 (cell s (k + 3) (k / 4))

/-- MixColumns and InvMixColumns (41_aes.md R158). -/
def mixColumns (s : Bytes) : Bytes := mixWith 0x02 0x03 0x01 0x01 s
def invMixColumns (s : Bytes) : Bytes := mixWith 0x0E 0x0B 0x0D 0x09 s

/-- AddRoundKey(j): s[r][c] xor w[4j + c][r], which is byte 16j + 4c + r of the schedule (41_aes.md R159). -/
def addRoundKey (rk : Bytes) (j : Nat) (s : Bytes) : Bytes :=
  aesState fun k => byteAt s k ^^^ byteAt rk (16 * j + k)

/-- One middle round of the cipher (41_aes.md R159). -/
def encRound (rk : Bytes) (s : Bytes) (j : Nat) : Bytes :=
  addRoundKey rk j (mixColumns (shiftRows (subBytes s)))

/-- One middle round of the inverse cipher (41_aes.md R159). -/
def decRound (rk : Bytes) (s : Bytes) (j : Nat) : Bytes :=
  invMixColumns (addRoundKey rk j (invSubBytes (invShiftRows s)))

/-- The middle rounds 1 .. Nr-1, in rising order (41_aes.md R159). -/
def middleRounds (nr : Nat) : List Nat := (List.range (nr - 1)).map (· + 1)

/-- AES_Encrypt(RK, b) for the schedule bytes `rk` and Nr rounds (41_aes.md R159). -/
def aesEncrypt (rk : Bytes) (nr : Nat) (b : Bytes) : Bytes :=
  let s := (middleRounds nr).foldl (encRound rk) (addRoundKey rk 0 b)
  addRoundKey rk nr (shiftRows (subBytes s))

/-- AES_Decrypt(RK, b) (41_aes.md R159). -/
def aesDecrypt (rk : Bytes) (nr : Nat) (b : Bytes) : Bytes :=
  let s := (middleRounds nr).reverse.foldl (decRound rk) (addRoundKey rk nr b)
  addRoundKey rk 0 (invSubBytes (invShiftRows s))

end Sys2Proof.Machine
end

