-- ==== Sys2Proof/Config.lean ====
section
/-! DEFINITION. What an implementation of the SCE fixes (00_scope.md R4) and the free values: the values the spec
says "the model draws", as constants with no body, so that no proof can depend on one. -/

namespace Sys2Proof

/-- The one parameter the spec leaves to the implementation: DMEM_SIZE, a multiple of 16 from 4096 to 65536
(00_scope.md R4, 92_eei_decisions.md D3). It is held as the number of 16-byte blocks above 4096 bytes, so that every
value of the type is a size the spec allows and no other size exists. -/
structure Config where
  extraBlocks : Fin 3841
deriving DecidableEq, Repr

/-- DMEM_SIZE in bytes. -/
def Config.dmemSize (c : Config) : Nat := 4096 + 16 * c.extraBlocks.val

/-- The default of 00_scope.md R4: DMEM_SIZE = 65536. -/
def Config.default : Config := { extraBlocks := 3840 }

/-- ID_VALUE (00_scope.md R4, 10_state.md R33): "SCE" in bits 31:8, interface revision 1 in bits 7:0. -/
def Config.idValue : U32 := 0x53434501

/-- GCM_NONCE_MIN and GCM_NONCE_MAX (00_scope.md R4). -/
def Config.gcmNonceMin : Nat := 4
def Config.gcmNonceMax : Nat := 32

/-- GCM_TAG_LENGTHS (00_scope.md R4, 45_gcm.md R257). -/
def Config.gcmTagLengths : List Nat := [4, 8, 12, 13, 14, 15, 16]

/-- CTR_WIDTHS: the accepted counter widths are 1 to 128 bits (00_scope.md R4). -/
def Config.ctrWidthMin : Nat := 1
def Config.ctrWidthMax : Nat := 128

/-- Free value: STATUS bits 31:1 as a read made while BUSY = 1 returns them; "the model draws them freely"
(10_state.md R35). The argument is the draw's number, so that each such read is a fresh draw. Log entry 4. -/
opaque Config.freeStatus : Nat → BitVec 31

/-- Free value: how many STATUS reads return BUSY = 1 before a command completes; "unspecified and unbounded, and
the model draws it" (70_reset_and_hazards.md R372). The argument is the draw's number. Log entry 5. -/
opaque Config.freePolls : Nat → Nat

end Sys2Proof
end

