-- ==== Sys2Proof/Syntax.lean ====
section
/-! DEFINITION. The 32 commands of the SCE, one constructor per row of spec/opcode_table.json (30_encoding.md
R103), with the fields of the command word that the row lets the command set (R101). -/

namespace Sys2Proof

/-- A command. `last`, `pad` and `x` are the flags L, P and X; `kl` is the key length code KL; `tl` is the field
TL (tag length minus one); `cw` is the counter width CW (30_encoding.md R101, R102). The numeric fields are
numbers, since the rules compute with them as numbers; `Instr.wellFormed` bounds each by its field's width. -/
inductive Instr where
  | nop
  | zeroize
  | keyld (kl : Nat)
  | nonceld
  | aesKeyexp
  | aesEnc
  | aesDec
  | chachaBlk
  | hchacha
  | chachaInit (x : Bool)
  | chachaXor
  | ctrInit (cw : Nat)
  | ctrXor
  | cbcInit
  | cbcEnc (last pad : Bool)
  | cbcDec (last pad : Bool)
  | gf128Mul
  | gcmInit
  | gcmAad (last : Bool)
  | gcmEnc (last : Bool)
  | gcmDec (last : Bool)
  | gcmTag (tl : Nat)
  | gcmVerify (tl : Nat)
  | gcmOpen (tl : Nat)
  | poly1305
  | cpInit (x : Bool)
  | cpAad (last : Bool)
  | cpEnc (last : Bool)
  | cpDec (last : Bool)
  | cpTag
  | cpVerify
  | cpOpen (x : Bool)
deriving DecidableEq, Repr

end Sys2Proof
end

