-- ==== Sys2Proof/Machine/State.lean ====
section
/-! DEFINITION. The state of the SCE (10_state.md), its reset value (R53), the model faults (60_exceptions.md R340)
and the refusals. State is plain data. -/

namespace Sys2Proof.Machine

open Sys2Proof

/-- The error codes of STATUS.ERRC (60_exceptions.md R330); codes 9 to 15 are never produced. -/
inductive ErrCode where
  | none
  | illegal
  | nokey
  | seq
  | arg
  | bounds
  | limit
  | auth
  | pad
deriving DecidableEq, Repr

/-- KLEN: no key, or a key of 16, 24 or 32 bytes (10_state.md R40). -/
inductive KeyLen where
  | none
  | k16
  | k24
  | k32
deriving DecidableEq, Repr

/-- MODE, the active mode context (10_state.md R43); the values 6 and 7 are never produced. -/
inductive Mode where
  | none
  | chacha
  | ctr
  | cbc
  | gcm
  | cp
deriving DecidableEq, Repr

/-- PHASE, the position of a stream in its message (10_state.md R50); `fin` is FINAL. -/
inductive Phase where
  | aad
  | text
  | fin
  | done
deriving DecidableEq, Repr

/-- The eight argument registers (10_state.md R31). -/
structure ArgRegs where
  src : U32
  dst : U32
  len : U32
  aad : U32
  aadlen : U32
  tag : U32
  aux0 : U32
  aux1 : U32
deriving DecidableEq, Repr

/-- The mode-context fields of 10_state.md R44, without PHASE. KIDX, LENA, LENC and ACC are the counts that the rules
compute in unbounded integers; their register bounds are the invariant `StreamInv` of Safety.lean (log entry 14). -/
structure Context where
  skey : Reg 32
  snonce : Reg 12
  kidx : Nat
  ctr0 : Reg 16
  cw : BitVec 8
  chain : Reg 16
  h : Reg 16
  j0 : Reg 16
  y : Reg 16
  lena : Nat
  lenc : Nat
  pr : BitVec 128
  ps : BitVec 128
  acc : Nat
deriving DecidableEq, Repr

/-- One event from outside the SCE, as it comes to the window: a bus access of the host (20_memory.md R73), the
host's polling loop (30_encoding.md R110 `wait`: repeat a STATUS read until BUSY reads 0), or the platform's reset
(70_reset_and_hazards.md R360). `bits` is the access width in bits, `off` the byte offset in the window of 0x2_0000
offsets (R70); a write of fewer than 32 bits carries its value in the low bits. Log entry 3. -/
inductive Input where
  | read (bits : Nat) (off : BitVec 17)
  | write (bits : Nat) (off : BitVec 17) (value : U32)
  | wait
  | reset
deriving DecidableEq, Repr

/-- How the last access that the host completed was made, for the end of a run (70_reset_and_hazards.md R374): none yet
since reset; with BUSY = 0, a STATUS read that returned BUSY = 0 among them; or a STATUS read that returned BUSY = 1.
Log entry 18. -/
inductive LastAccess where
  | none
  | busy0
  | busy1
deriving DecidableEq, Repr

/-- DMEM: the written bytes, as (address, byte) pairs with strictly rising addresses; an address that is not listed
is unwritten (20_memory.md R76). -/
abbrev Memory := List Host.Cell

/-- Everything the spec gives the SCE, and the model's own `inputs`, `answers`, `lastAccess`, `pollsLeft` and
`draws`. -/
structure State where
  /-- DMEM_SIZE, the implementation's parameter (00_scope.md R4); no step writes it. -/
  cfg : Config
  /-- BUSY (10_state.md R54). -/
  busy : Bool
  /-- LATCH, the command word awaiting execution (10_state.md R54). -/
  latch : U32
  /-- A_SRC to A_AUX1 (10_state.md R31). -/
  args : ArgRegs
  /-- STATUS.ERRC; STATUS.ERR is derived from it (10_state.md R36). -/
  errc : ErrCode
  /-- OUTLEN (10_state.md R39). -/
  outlen : U32
  /-- KEY and KLEN (10_state.md R40). -/
  key : Reg 32
  klen : KeyLen
  /-- RK: 60 words of four bytes, w[i] at bytes 4i to 4i+3, with Nr and KSV (10_state.md R41). -/
  rk : Reg 240
  nr : Nat
  ksv : Bool
  /-- NONCE and NLEN (10_state.md R42). -/
  nonce : Reg 32
  nlen : Fin 33
  /-- MODE, PHASE and the mode context (10_state.md R43, R44, R50). -/
  mode : Mode
  phase : Phase
  ctx : Context
  /-- DMEM (20_memory.md R70, R76). -/
  dmem : Memory
  /-- The model's: the events from outside still to come, oldest first (log entry 3). -/
  inputs : List Input
  /-- The model's: the values the host's reads returned, oldest first (log entry 3). -/
  answers : List U32
  /-- The model's: how the last completed access was made (70_reset_and_hazards.md R374, log entry 18). -/
  lastAccess : LastAccess
  /-- The model's: how many more STATUS reads return BUSY = 1 (70_reset_and_hazards.md R372, log entry 5). -/
  pollsLeft : Nat
  /-- The model's: the number of the next free value (log entry 6). -/
  draws : Nat
deriving DecidableEq, Repr

/-- The reset values of 10_state.md R44. -/
def Context.reset : Context :=
  { skey := Vector.replicate 32 0, snonce := Vector.replicate 12 0, kidx := 0, ctr0 := Vector.replicate 16 0, cw := 0,
    chain := Vector.replicate 16 0, h := Vector.replicate 16 0, j0 := Vector.replicate 16 0,
    y := Vector.replicate 16 0, lena := 0, lenc := 0, pr := 0, ps := 0, acc := 0 }

/-- The argument registers after reset: 0 each (10_state.md R31). -/
def ArgRegs.reset : ArgRegs :=
  { src := 0, dst := 0, len := 0, aad := 0, aadlen := 0, tag := 0, aux0 := 0, aux1 := 0 }

/-- The state after reset (10_state.md R53, 70_reset_and_hazards.md R360): every register 0, every DMEM byte
unwritten. DMEM_SIZE is the spec's default (log entry 1); the model's own fields are empty, `none` and 0 (log
entries 3, 5, 6 and 18). -/
def State.reset : State :=
  { cfg := Config.default, busy := false, latch := 0, args := ArgRegs.reset, errc := .none, outlen := 0,
    key := Vector.replicate 32 0, klen := .none, rk := Vector.replicate 240 0, nr := 0, ksv := false,
    nonce := Vector.replicate 32 0, nlen := 0, mode := .none, phase := .aad, ctx := Context.reset, dmem := [],
    inputs := [], answers := [], lastAccess := .none, pollsLeft := 0, draws := 0 }

/-- The model faults of 60_exceptions.md R340: a host action or a state for which the spec defines no next state. The
chip goes on in some way the spec leaves open, so each is safe: the model stops where the chip does not. Where one
access meets two of them, R340 gives no order: the model reports `busyHazard` before `busAccess` before `unwrittenDmem`
(DESIGN CHOICE, log entry 17). -/
inductive Fault where
  /-- A host access of an illegal width or alignment (20_memory.md R73). Raised by the host accesses. Safe. -/
  | busAccess
  /-- A host read, or a read of a command that passed all its checks, covers a DMEM byte never written since reset
  (20_memory.md R76). Raised by the host's DMEM reads and by every command that reads DMEM. Safe. -/
  | unwrittenDmem
  /-- A host access other than a 32-bit STATUS read while BUSY = 1 (70_reset_and_hazards.md R370). Raised by the host
  accesses. Safe. -/
  | busyHazard
deriving DecidableEq, Repr

/-- The reasons for which the model gives a command no meaning. -/
inductive Refusal where
  /-- The command has no meaning in the model yet. Raised by no arm: every command has its meaning. Safe. -/
  | notModelled (mnemonic : String)
deriving DecidableEq, Repr

/-- What a step, a command or a host access answers. -/
abbrev Result := Host.Outcome State Fault Refusal

end Sys2Proof.Machine
end

