-- ==== Sys2Proof/Machine/Ops.lean ====
section
/-! DEFINITION. The shared operations of the commands: DMEM (20_memory.md R74 to R79), the completion of a command
and the raising of an error code (60_exceptions.md R333, R334), and the checks of 00_scope.md R9. The SCE has no
traps (60_exceptions.md R342): `raiseErr` is what an error does, and there is nothing to return from. -/

namespace Sys2Proof.Machine

open Sys2Proof

/-! ## DMEM -/

/-- The byte at an address, or none where the byte is unwritten (20_memory.md R76). -/
def Memory.read (m : Memory) (a : Nat) : Option Byte :=
  match m with
  | [] => none
  | c :: rest => if c.1 = a then some c.2 else Memory.read rest a

/-- MemRead: the n bytes from a on, or none where one of them is unwritten (20_memory.md R76, R77). -/
def Memory.readBytes (m : Memory) (a : Nat) : Nat → Option Bytes
  | 0 => some []
  | n + 1 =>
    match m.read a, m.readBytes (a + 1) n with
    | some b, some bs => some (b :: bs)
    | _, _ => none

/-- The cells of a byte string laid out from a on. -/
def cellsFrom (a : Nat) : Bytes → Memory
  | [] => []
  | b :: bs => (a, b) :: cellsFrom (a + 1) bs

/-- MemWrite: the bytes v at a, a + 1, ...; every other byte stays as it was (20_memory.md R77). -/
def Memory.write (m : Memory) (a : Nat) (v : Bytes) : Memory :=
  (m.filter fun c => c.1 < a) ++ cellsFrom a v ++ m.filter fun c => a + v.length ≤ c.1

/-- The canonical form: addresses strictly rising. (An unlisted address is unwritten, and a listed byte is written,
so no listed byte equals what an unlisted address reads as.) -/
def Memory.wf : Memory → Bool
  | [] => true
  | [_] => true
  | c :: d :: rest => decide (c.1 < d.1) && Memory.wf (d :: rest)

/-- Every listed address lies below the given size (20_memory.md R70: DMEM is addresses 0 to DMEM_SIZE - 1). -/
def Memory.below (m : Memory) (size : Nat) : Bool := m.all fun c => decide (c.1 < size)

/-- DMEM_SIZE of this SCE (00_scope.md R4). -/
def State.dmemSize (s : State) : Nat := s.cfg.dmemSize

/-- InBounds(a, n): n = 0, or a + n <= DMEM_SIZE in unbounded integers (20_memory.md R74). -/
abbrev State.inBounds (s : State) (a : U32) (n : Nat) : Prop := n = 0 ∨ a.toNat + n ≤ s.dmemSize

/-! ## Completion and errors -/

/-- Completion: ERRC <- code (and with it ERR), OUTLEN <- n, BUSY <- 0 (60_exceptions.md R334). -/
def State.completed (s : State) (e : ErrCode) (n : Nat) : State :=
  { s with errc := e, outlen := BitVec.ofNat 32 n, busy := false }

/-- `raise E`: the command ends with error code E, OUTLEN <- 0 and BUSY <- 0, and nothing else changes
(60_exceptions.md R333). -/
def raiseErr (e : ErrCode) (s : State) : Result := .next (s.completed e 0)

/-- The end of a command that succeeded: `OUT <- n` on the state with the command's writes (60_exceptions.md R334). -/
def finish (n : Nat) (s : State) : Result := .next (s.completed .none n)

/-- `require c else E` (00_scope.md R9). -/
def require (c : Prop) [Decidable c] (e : ErrCode) (s : State) (k : Result) : Result :=
  if c then k else raiseErr e s

/-- A MemRead of a command that passed all its checks: the command goes on with the bytes, or the model faults where
one of them is unwritten (20_memory.md R76, R77). -/
def memRead (s : State) (a : U32) (n : Nat) (k : Bytes → Result) : Result :=
  match s.dmem.readBytes a.toNat n with
  | some v => k v
  | none => .fault .unwrittenDmem

/-- MemWrite(a, |v|, v) (20_memory.md R77). -/
def State.memWrite (s : State) (a : U32) (v : Bytes) : State := { s with dmem := s.dmem.write a.toNat v }

/-- `MemWrite(a, n, v)` and `OUT <- n`: the end of a command that writes the n bytes v to DMEM. -/
def finishWrite (n : Nat) (a : U32) (v : Bytes) (s : State) : Result := finish n (s.memWrite a v)

end Sys2Proof.Machine
end

