-- ==== Sys2Proof/Machine/Operands.lean ====
section
/-! DEFINITION. The operand forms of the commands: the values of the fields KL, TL and CW (30_encoding.md R102,
R106), the byte strings of the engine registers (10_state.md R40 to R42), and the key, nonce, mode and phase
conditions that the command rules check. -/

namespace Sys2Proof.Machine

open Sys2Proof

/-- The length of A.LEN and A.AADLEN as a byte count (30_encoding.md R108). -/
def State.argLen (s : State) : Nat := s.args.len.toNat
def State.argAadLen (s : State) : Nat := s.args.aadlen.toNat

/-- KLEN in bytes (10_state.md R40). -/
def KeyLen.bytes : KeyLen → Nat
  | .none => 0
  | .k16 => 16
  | .k24 => 24
  | .k32 => 32

/-- Nk = KLEN / 4 and Nr = Nk + 6 (41_aes.md R162). -/
def KeyLen.nk (k : KeyLen) : Nat := k.bytes / 4
def KeyLen.rounds (k : KeyLen) : Nat := k.nk + 6

/-- The key length of the code KL = 0, 1, 2 (30_encoding.md R102); KL = 3 is refused before this is used. -/
def keyLenOf (kl : Nat) : KeyLen :=
  if kl = 0 then .k16 else if kl = 1 then .k24 else .k32

/-- t = TL + 1 (30_encoding.md R102, 45_gcm.md R257). -/
def tagLen (tl : Nat) : Nat := tl + 1

/-- t is an accepted GCM tag length (45_gcm.md R257). -/
abbrev tagLenOk (tl : Nat) : Prop := tagLen tl ∈ Config.gcmTagLengths

/-- CW is an accepted counter width (43_ctr.md R210). -/
abbrev ctrWidthOk (cw : Nat) : Prop := Config.ctrWidthMin ≤ cw ∧ cw ≤ Config.ctrWidthMax

/-- NLEN is an accepted GCM nonce length (45_gcm.md R254). -/
abbrev State.gcmNonceOk (s : State) : Prop :=
  Config.gcmNonceMin ≤ s.nlen.val ∧ s.nlen.val ≤ Config.gcmNonceMax

/-- NLEN is the nonce length of a ChaCha20 (x = false) or XChaCha20 (x = true) stream (42_chacha.md R187). -/
abbrev State.streamNonceOk (s : State) (x : Bool) : Prop := s.nlen.val = if x then 24 else 12

/-- NONCE[0..NLEN), the loaded nonce. -/
def State.nonceBytes (s : State) : Bytes := slice s.nonce.toList 0 s.nlen.val

/-- NONCE[0..16), the initial counter block of a CTR stream (43_ctr.md R210) and the IV of a CBC stream (44_cbc.md
R230). -/
def State.nonce16 (s : State) : Bytes := slice s.nonce.toList 0 16

/-- AES_Encrypt and AES_Decrypt under the engine's schedule RK and Nr (41_aes.md R159). -/
def State.aesEnc (s : State) (b : Bytes) : Bytes := aesEncrypt s.rk.toList s.nr b
def State.aesDec (s : State) (b : Bytes) : Bytes := aesDecrypt s.rk.toList s.nr b

/-- A chunk that is not the last of its stream is a multiple of 16 bytes (92_eei_decisions.md D24). -/
abbrev chunkOk (last : Bool) (n : Nat) : Prop := last = false → n % 16 = 0

/-- MODE = m and the stream still takes text: PHASE is AAD or TEXT (10_state.md R50). -/
abbrev State.takesText (s : State) (m : Mode) : Prop := s.mode = m ∧ (s.phase = .aad ∨ s.phase = .text)

/-- MODE = m and the message is not closed: PHASE is not DONE (10_state.md R50). -/
abbrev State.isOpen (s : State) (m : Mode) : Prop := s.mode = m ∧ s.phase ≠ .done

/-- MODE = m and the stream still takes AAD: PHASE is AAD (10_state.md R50). -/
abbrev State.takesAad (s : State) (m : Mode) : Prop := s.mode = m ∧ s.phase = .aad

/-- The phase after a text chunk: FINAL if it was the last, else TEXT (45_gcm.md R256). -/
def phaseAfterText (last : Bool) : Phase := if last then .fin else .text

/-- The phase after an AAD chunk of a stream in phase `p`: TEXT if it was the last (45_gcm.md R255). -/
def phaseAfterAad (last : Bool) (p : Phase) : Phase := if last then .text else p

end Sys2Proof.Machine
end

