-- ==== Sys2Proof/Machine/Flags.lean ====
section
/-! DEFINITION. STATUS, the SCE's only flags: the codes of its fields and the word a host read returns
(10_state.md R34 to R37, 60_exceptions.md R330). -/

namespace Sys2Proof.Machine

open Sys2Proof

/-- STATUS.ERRC (60_exceptions.md R330). -/
def ErrCode.code : ErrCode → BitVec 4
  | .none => 0
  | .illegal => 1
  | .nokey => 2
  | .seq => 3
  | .arg => 4
  | .bounds => 5
  | .limit => 6
  | .auth => 7
  | .pad => 8

/-- STATUS.ERR: 1 iff ERRC is not 0 (10_state.md R34). -/
def ErrCode.errBit (e : ErrCode) : BitVec 1 := if e.code = 0 then 0 else 1

/-- STATUS.KLC (10_state.md R34). -/
def KeyLen.code : KeyLen → BitVec 2
  | .none => 0
  | .k16 => 1
  | .k24 => 2
  | .k32 => 3

/-- STATUS.MODE (10_state.md R43). -/
def Mode.code : Mode → BitVec 3
  | .none => 0
  | .chacha => 1
  | .ctr => 2
  | .cbc => 3
  | .gcm => 4
  | .cp => 5

/-- STATUS.PHASE (10_state.md R50). -/
def Phase.code : Phase → BitVec 2
  | .aad => 0
  | .text => 1
  | .fin => 2
  | .done => 3

/-- STATUS with BUSY = 0, from bit 31 down: reserved, NLEN, reserved, PHASE, reserved, MODE, reserved, KSV, KLC,
ERRC, reserved, ERR, BUSY (10_state.md R34). -/
def statusWord (s : State) : U32 :=
  (0 : BitVec 2) ++ BitVec.ofNat 6 s.nlen.val ++ (0 : BitVec 6) ++ s.phase.code ++ (0 : BitVec 1) ++ s.mode.code ++
    (0 : BitVec 1) ++ BitVec.ofBool s.ksv ++ s.klen.code ++ s.errc.code ++ (0 : BitVec 2) ++ s.errc.errBit ++
    (0 : BitVec 1)

/-- STATUS as a read made while BUSY = 1 returns it: bit 0 is 1 and bits 31:1 are a free value (10_state.md R35). -/
def busyStatusWord (draw : Nat) : U32 := Config.freeStatus draw ++ (1 : BitVec 1)

end Sys2Proof.Machine
end

