-- ==== Sys2Proof/Machine/Bus.lean ====
section
/-! DEFINITION. The host's side of the SCE: the register window (10_state.md section 2), the host accesses
(20_memory.md R70 to R76), the BUSY hazard (70_reset_and_hazards.md R370), polling (R372), the platform's reset (R360),
who moves next, and the observation at the end of a run (R374). -/

namespace Sys2Proof.Machine

open Sys2Proof

/-- The twelve registers of the window (10_state.md section 2). -/
inductive HostReg where
  | id
  | status
  | cmd
  | outlen
  | src
  | dst
  | len
  | aad
  | aadlen
  | tag
  | aux0
  | aux1
deriving DecidableEq, Repr

/-- The registers in the order of their offsets. -/
def hostRegs : List HostReg :=
  [.id, .status, .cmd, .outlen, .src, .dst, .len, .aad, .aadlen, .tag, .aux0, .aux1]

/-- The offset of a register in the window (10_state.md section 2). -/
def HostReg.offset : HostReg → Nat
  | .id => 0x000
  | .status => 0x004
  | .cmd => 0x008
  | .outlen => 0x00C
  | .src => 0x010
  | .dst => 0x014
  | .len => 0x018
  | .aad => 0x01C
  | .aadlen => 0x020
  | .tag => 0x024
  | .aux0 => 0x028
  | .aux1 => 0x02C

/-- The register at an offset of the window; none at a reserved offset (20_memory.md R71). -/
def regAt (off : Nat) : Option HostReg := hostRegs.find? fun r => r.offset == off

/-- The offset in the window of DMEM byte 0 (20_memory.md R71). -/
def dmemWindow : Nat := 0x10000

/-- What a 32-bit read of a register returns; CMD reads 0 (10_state.md section 2, 20_memory.md R72), and STATUS has
free bits 31:1 while BUSY = 1 (10_state.md R35). -/
def readReg (s : State) : HostReg → U32
  | .id => Config.idValue
  | .status => if s.busy then busyStatusWord s.draws else statusWord s
  | .cmd => 0
  | .outlen => s.outlen
  | .src => s.args.src
  | .dst => s.args.dst
  | .len => s.args.len
  | .aad => s.args.aad
  | .aadlen => s.args.aadlen
  | .tag => s.args.tag
  | .aux0 => s.args.aux0
  | .aux1 => s.args.aux1

/-- A CMD write with BUSY = 0: LATCH <- w, BUSY <- 1 (10_state.md R38, R54). The number of STATUS reads that will
return BUSY = 1 is drawn here (70_reset_and_hazards.md R372, log entry 5). -/
def State.issue (s : State) (w : U32) : State :=
  { s with latch := w, busy := true, pollsLeft := Config.freePolls s.draws, draws := s.draws + 1 }

/-- A 32-bit write of a register with BUSY = 0; writes of ID, STATUS and OUTLEN are ignored (20_memory.md R72). -/
def writeReg (s : State) (v : U32) : HostReg → State
  | .id | .status | .outlen => s
  | .cmd => s.issue v
  | .src => { s with args := { s.args with src := v } }
  | .dst => { s with args := { s.args with dst := v } }
  | .len => { s with args := { s.args with len := v } }
  | .aad => { s with args := { s.args with aad := v } }
  | .aadlen => { s with args := { s.args with aadlen := v } }
  | .tag => { s with args := { s.args with tag := v } }
  | .aux0 => { s with args := { s.args with aux0 := v } }
  | .aux1 => { s with args := { s.args with aux1 := v } }

/-- The access is legal by its width and alignment (20_memory.md R73): 32 bits, word-aligned, below 0x1_0000; 8, 16
or 32 bits, aligned to its width, from 0x1_0000 on. -/
abbrev accessLegal (bits off : Nat) : Prop :=
  if off < dmemWindow then bits = 32 ∧ off % 4 = 0
  else (bits = 8 ∨ bits = 16 ∨ bits = 32) ∧ off % (bits / 8) = 0

/-- A host read with BUSY = 0: the value it returns, at the width of the access, in the low bits; a DMEM read is
little-endian (20_memory.md R72, R73, R75, R76). An illegal read over unwritten bytes is `busAccess`, not
`unwrittenDmem`: R340 gives no order of the two reasons (DESIGN CHOICE, log entry 17). -/
def hostRead (s : State) (bits off : Nat) : Except Fault U32 :=
  if ¬ accessLegal bits off then .error .busAccess
  else if off < dmemWindow then
    match regAt off with
    | some r => .ok (readReg s r)
    | none => .ok 0
  else if off - dmemWindow < s.dmemSize then
    match s.dmem.readBytes (off - dmemWindow) (bits / 8) with
    | some v => .ok (BitVec.ofNat 32 (le v))
    | none => .error .unwrittenDmem
  else .ok 0

/-- A host write with BUSY = 0: the state it leaves (20_memory.md R72, R73, R75, R76). -/
def hostWrite (s : State) (bits off : Nat) (v : U32) : Except Fault State :=
  if ¬ accessLegal bits off then .error .busAccess
  else if off < dmemWindow then
    match regAt off with
    | some r => .ok (writeReg s v r)
    | none => .ok s
  else if off - dmemWindow < s.dmemSize then
    .ok { s with dmem := s.dmem.write (off - dmemWindow) (leBytes (bits / 8) v.toNat) }
  else .ok s

/-- The platform's reset: every piece of the SCE at its reset value (70_reset_and_hazards.md R360, R361). The
parameter and the model's record of the outside (inputs, answers, draws) are not the SCE's to reset (log entry 9); a new
run begins, of which no access is completed yet (R374, log entry 18). -/
def State.platformReset (s : State) : State :=
  { State.reset with cfg := s.cfg, inputs := s.inputs, answers := s.answers, draws := s.draws }

/-- The pending event is a 32-bit read of STATUS, the only legal host access while BUSY = 1
(70_reset_and_hazards.md R370). -/
def Input.readsStatus : Input → Bool
  | .read bits off => decide (bits = 32 ∧ off.toNat = HostReg.status.offset)
  | .wait => true
  | .write _ _ _ => false
  | .reset => false

/-- A STATUS read that returns BUSY = 1 and free bits 31:1 (10_state.md R35, 70_reset_and_hazards.md R372). -/
def State.polled (s : State) : State :=
  { s with
    answers := s.answers ++ [busyStatusWord s.draws], lastAccess := .busy1, draws := s.draws + 1,
    pollsLeft := s.pollsLeft - 1 }

/-- The access at the front of the inputs completed with BUSY = 0, and `rest` are the events after it
(70_reset_and_hazards.md R374). -/
def State.accessed (s : State) (rest : List Input) : State := { s with inputs := rest, lastAccess := .busy0 }

/-- A read completed with BUSY = 0 and returned v. -/
def State.answered (s : State) (rest : List Input) (v : U32) : State :=
  { s.accessed rest with answers := s.answers ++ [v] }

/-- The event i, taken from the front of the inputs, with BUSY = 0; `rest` are the events after it. -/
def hostIdle (i : Input) (rest : List Input) (s : State) : Result :=
  match i with
  | .read bits off =>
    match hostRead s bits off.toNat with
    | .ok v => .next (s.answered rest v)
    | .error f => .fault f
  | .write bits off v =>
    match hostWrite s bits off.toNat v with
    | .ok s' => .next (s'.accessed rest)
    | .error f => .fault f
  | .wait => .next (s.answered rest (statusWord s))
  | .reset => .next { s.platformReset with inputs := rest }

/-- The event i with BUSY = 1 and the engine's transition not yet taken: a STATUS read returns BUSY = 1, and the
polling loop goes on; the platform may reset; anything else is the BUSY hazard (70_reset_and_hazards.md R361, R370,
R372). An access of illegal width or alignment made here is `busyHazard`, not `busAccess`: R73 and R370 both name it,
and no rule gives an order of the two reasons (DESIGN CHOICE, log entry 17). -/
def hostBusy (i : Input) (rest : List Input) (s : State) : Result :=
  match i with
  | .wait => .next s.polled
  | .reset => .next { s.platformReset with inputs := rest }
  | .read bits off =>
    if (Input.read bits off).readsStatus then .next { s.polled with inputs := rest } else .fault .busyHazard
  | .write _ _ _ => .fault .busyHazard

/-- The host's step: the oldest event. -/
def hostStep (s : State) : Result :=
  match s.inputs with
  | [] => .next s
  | i :: rest => if s.busy then hostBusy i rest s else hostIdle i rest s

/-- Who moves next. -/
inductive Turn where
  | engine
  | host
  | idle
deriving DecidableEq, Repr

/-- With BUSY = 1 the engine's transition is enabled (10_state.md R54): it is taken at once if no event is pending,
and before a STATUS read once the drawn number of BUSY = 1 answers is used up (70_reset_and_hazards.md R372). With
BUSY = 0 the host moves; with nothing to do the SCE is idle and keeps its state (60_exceptions.md R349). Log entry 4. -/
def turn (s : State) : Turn :=
  match s.inputs with
  | [] => if s.busy then .engine else .idle
  | i :: _ => if s.busy && i.readsStatus && s.pollsLeft == 0 then .engine else .host

/-- The registers that STATUS mirrors (10_state.md R37). -/
structure StatusMirrors where
  klen : KeyLen
  ksv : Bool
  mode : Mode
  phase : Phase
  nlen : Fin 33
deriving DecidableEq, Repr

/-- The observation at the end of a run (70_reset_and_hazards.md R374): DMEM, the host-visible registers as reads return
them, and the STATUS mirrors. -/
structure Observation where
  dmem : Memory
  regs : List U32
  mirrors : StatusMirrors
deriving DecidableEq, Repr

/-- The observation of a state (70_reset_and_hazards.md R374). In a run that ends with a CMD write, BUSY is 1 and the
other bits of STATUS are free (10_state.md R35, log entry 18). -/
def State.observe (s : State) : Observation :=
  { dmem := s.dmem, regs := hostRegs.map (readReg s),
    mirrors := { klen := s.klen, ksv := s.ksv, mode := s.mode, phase := s.phase, nlen := s.nlen } }

/-- The run has ended: no access is pending, and the last one was a STATUS read that returned BUSY = 0 or was made with
BUSY = 0 (70_reset_and_hazards.md R374). The end is the first such state of the run, before the engine's transition
where the last access is a CMD write (log entry 18). -/
abbrev State.runEnded (s : State) : Prop := s.inputs = [] ∧ s.lastAccess = .busy0

end Sys2Proof.Machine
end

