-- ==== Sys2Proof/WellFormed.lean ====
section
/-! DEFINITION. Which commands a 32-bit word can carry: each numeric field fits its field of the word
(30_encoding.md R101). A well-formed command may still name a value that its rule does not accept (KL = 3, a bad
TL, a bad CW); that command decodes and raises ARG (R106). -/

namespace Sys2Proof

/-- KL is the two bits 13:12. -/
def klFits (kl : Nat) : Bool := decide (kl < 4)

/-- TL is the four bits 19:16. -/
def tlFits (tl : Nat) : Bool := decide (tl < 16)

/-- CW is the eight bits 31:24. -/
def cwFits (cw : Nat) : Bool := decide (cw < 256)

/-- Every numeric field of the command fits its field of the command word. -/
def Instr.wellFormed : Instr → Bool
  | .keyld kl => klFits kl
  | .ctrInit cw => cwFits cw
  | .gcmTag tl => tlFits tl
  | .gcmVerify tl => tlFits tl
  | .gcmOpen tl => tlFits tl
  | .nop | .zeroize | .nonceld | .aesKeyexp | .aesEnc | .aesDec | .chachaBlk | .hchacha | .chachaInit _
  | .chachaXor | .ctrXor | .cbcInit | .cbcEnc _ _ | .cbcDec _ _ | .gf128Mul | .gcmInit | .gcmAad _ | .gcmEnc _
  | .gcmDec _ | .poly1305 | .cpInit _ | .cpAad _ | .cpEnc _ | .cpDec _ | .cpTag | .cpVerify | .cpOpen _ => true

end Sys2Proof
end

