-- ==== Sys2Proof/Decode.lean ====
section
/-! DEFINITION. The decoder of the command word (30_encoding.md R101 to R107), total on every 32-bit word and
rejecting by name, and after it the encoder (R101, R103) and the mask and match columns of the opcode map. -/

namespace Sys2Proof

/-- The fields of a command word other than OP (30_encoding.md R101). -/
structure Fields where
  l : Bool
  p : Bool
  x : Bool
  kl : Nat
  tl : Nat
  cw : Nat
deriving DecidableEq, Repr

/-- Why a word is illegal. -/
inductive DecodeError where
  /-- OP is none of the 32 assigned values (30_encoding.md R105). -/
  | unassignedOp
  /-- OP is assigned, and a bit of 31:8 outside that opcode's fields is set (30_encoding.md R104). -/
  | reservedBits
deriving DecidableEq, Repr

/-- One row of the opcode map: OP, FIELDMASK(OP) and the command (30_encoding.md R103, R107). -/
structure Row where
  mnemonic : String
  code : BitVec 8
  fieldMask : U32
  build : Fields → Instr

/-- FIELDMASK values (30_encoding.md R107). -/
def maskL : U32 := 0x00000100
def maskP : U32 := 0x00000200
def maskX : U32 := 0x00000400
def maskKL : U32 := 0x00003000
def maskTL : U32 := 0x000F0000
def maskCW : U32 := 0xFF000000
def maskLP : U32 := 0x00000300

def controlRows : List Row :=
  [ { mnemonic := "NOP", code := 0x00, fieldMask := 0, build := fun _ => .nop },
    { mnemonic := "ZEROIZE", code := 0x01, fieldMask := 0, build := fun _ => .zeroize },
    { mnemonic := "KEYLD", code := 0x02, fieldMask := maskKL, build := fun f => .keyld f.kl },
    { mnemonic := "NONCELD", code := 0x03, fieldMask := 0, build := fun _ => .nonceld } ]

def aesRows : List Row :=
  [ { mnemonic := "AES_KEYEXP", code := 0x10, fieldMask := 0, build := fun _ => .aesKeyexp },
    { mnemonic := "AES_ENC", code := 0x11, fieldMask := 0, build := fun _ => .aesEnc },
    { mnemonic := "AES_DEC", code := 0x12, fieldMask := 0, build := fun _ => .aesDec } ]

def chachaRows : List Row :=
  [ { mnemonic := "CHACHA_BLK", code := 0x20, fieldMask := 0, build := fun _ => .chachaBlk },
    { mnemonic := "HCHACHA", code := 0x21, fieldMask := 0, build := fun _ => .hchacha },
    { mnemonic := "CHACHA_INIT", code := 0x22, fieldMask := maskX, build := fun f => .chachaInit f.x },
    { mnemonic := "CHACHA_XOR", code := 0x23, fieldMask := 0, build := fun _ => .chachaXor } ]

def blockModeRows : List Row :=
  [ { mnemonic := "CTR_INIT", code := 0x30, fieldMask := maskCW, build := fun f => .ctrInit f.cw },
    { mnemonic := "CTR_XOR", code := 0x31, fieldMask := 0, build := fun _ => .ctrXor },
    { mnemonic := "CBC_INIT", code := 0x40, fieldMask := 0, build := fun _ => .cbcInit },
    { mnemonic := "CBC_ENC", code := 0x41, fieldMask := maskLP, build := fun f => .cbcEnc f.l f.p },
    { mnemonic := "CBC_DEC", code := 0x42, fieldMask := maskLP, build := fun f => .cbcDec f.l f.p } ]

def gcmRows : List Row :=
  [ { mnemonic := "GF128_MUL", code := 0x50, fieldMask := 0, build := fun _ => .gf128Mul },
    { mnemonic := "GCM_INIT", code := 0x51, fieldMask := 0, build := fun _ => .gcmInit },
    { mnemonic := "GCM_AAD", code := 0x52, fieldMask := maskL, build := fun f => .gcmAad f.l },
    { mnemonic := "GCM_ENC", code := 0x53, fieldMask := maskL, build := fun f => .gcmEnc f.l },
    { mnemonic := "GCM_DEC", code := 0x54, fieldMask := maskL, build := fun f => .gcmDec f.l },
    { mnemonic := "GCM_TAG", code := 0x55, fieldMask := maskTL, build := fun f => .gcmTag f.tl },
    { mnemonic := "GCM_VERIFY", code := 0x56, fieldMask := maskTL, build := fun f => .gcmVerify f.tl },
    { mnemonic := "GCM_OPEN", code := 0x57, fieldMask := maskTL, build := fun f => .gcmOpen f.tl } ]

def cpRows : List Row :=
  [ { mnemonic := "POLY1305", code := 0x60, fieldMask := 0, build := fun _ => .poly1305 },
    { mnemonic := "CP_INIT", code := 0x61, fieldMask := maskX, build := fun f => .cpInit f.x },
    { mnemonic := "CP_AAD", code := 0x62, fieldMask := maskL, build := fun f => .cpAad f.l },
    { mnemonic := "CP_ENC", code := 0x63, fieldMask := maskL, build := fun f => .cpEnc f.l },
    { mnemonic := "CP_DEC", code := 0x64, fieldMask := maskL, build := fun f => .cpDec f.l },
    { mnemonic := "CP_TAG", code := 0x65, fieldMask := 0, build := fun _ => .cpTag },
    { mnemonic := "CP_VERIFY", code := 0x66, fieldMask := 0, build := fun _ => .cpVerify },
    { mnemonic := "CP_OPEN", code := 0x67, fieldMask := maskX, build := fun f => .cpOpen f.x } ]

/-- The opcode map of 30_encoding.md R103. -/
def opcodeTable : List Row :=
  controlRows ++ aesRows ++ chachaRows ++ blockModeRows ++ gcmRows ++ cpRows

/-- OP, bits 7:0 of the word. -/
def opOf (w : U32) : BitVec 8 := w.extractLsb' 0 8

/-- The fields of the word: bits 8, 9, 10, 13:12, 19:16 and 31:24 (30_encoding.md R101, R107). -/
def fieldsOf (w : U32) : Fields :=
  { l := w.getLsbD 8, p := w.getLsbD 9, x := w.getLsbD 10,
    kl := (w.extractLsb' 12 2).toNat, tl := (w.extractLsb' 16 4).toNat, cw := (w.extractLsb' 24 8).toNat }

/-- The row of the opcode map that has this OP. -/
def rowOf (op : BitVec 8) : Option Row := opcodeTable.find? fun r => r.code == op

/-- Decoding, the pseudocode of 30_encoding.md R107: OP first (R105), then the bits outside its fields (R104). -/
def decode (w : U32) : Except DecodeError Instr :=
  match rowOf (opOf w) with
  | none => .error .unassignedOp
  | some r =>
    if w &&& ~~~((0xFF : U32) ||| r.fieldMask) = 0 then .ok (r.build (fieldsOf w)) else .error .reservedBits

/-- A flag as a one-bit field at bit `pos` of the word. -/
def flagAt (b : Bool) (pos : Nat) : U32 := if b then 1#32 <<< pos else 0

/-- A numeric field of `width` bits at bit `pos` of the word. -/
def fieldAt (v width pos : Nat) : U32 := BitVec.ofNat 32 (v % 2 ^ width) <<< pos

/-- The command word of a command, from 30_encoding.md R101 and R103: OP in bits 7:0, L at 8, P at 9, X at 10, KL
at 13:12, TL at 19:16, CW at 31:24, every other bit 0. -/
def encode : Instr → U32
  | .nop => 0x00
  | .zeroize => 0x01
  | .keyld kl => 0x02 ||| fieldAt kl 2 12
  | .nonceld => 0x03
  | .aesKeyexp => 0x10
  | .aesEnc => 0x11
  | .aesDec => 0x12
  | .chachaBlk => 0x20
  | .hchacha => 0x21
  | .chachaInit x => 0x22 ||| flagAt x 10
  | .chachaXor => 0x23
  | .ctrInit cw => 0x30 ||| fieldAt cw 8 24
  | .ctrXor => 0x31
  | .cbcInit => 0x40
  | .cbcEnc l p => 0x41 ||| flagAt l 8 ||| flagAt p 9
  | .cbcDec l p => 0x42 ||| flagAt l 8 ||| flagAt p 9
  | .gf128Mul => 0x50
  | .gcmInit => 0x51
  | .gcmAad l => 0x52 ||| flagAt l 8
  | .gcmEnc l => 0x53 ||| flagAt l 8
  | .gcmDec l => 0x54 ||| flagAt l 8
  | .gcmTag tl => 0x55 ||| fieldAt tl 4 16
  | .gcmVerify tl => 0x56 ||| fieldAt tl 4 16
  | .gcmOpen tl => 0x57 ||| fieldAt tl 4 16
  | .poly1305 => 0x60
  | .cpInit x => 0x61 ||| flagAt x 10
  | .cpAad l => 0x62 ||| flagAt l 8
  | .cpEnc l => 0x63 ||| flagAt l 8
  | .cpDec l => 0x64 ||| flagAt l 8
  | .cpTag => 0x65
  | .cpVerify => 0x66
  | .cpOpen x => 0x67 ||| flagAt x 10

/-- The "mask" column of 30_encoding.md R103, by command. -/
def tableMask : Instr → U32
  | .keyld _ => 0xFFFFCFFF
  | .chachaInit _ | .cpInit _ | .cpOpen _ => 0xFFFFFBFF
  | .ctrInit _ => 0x00FFFFFF
  | .cbcEnc _ _ | .cbcDec _ _ => 0xFFFFFCFF
  | .gcmAad _ | .gcmEnc _ | .gcmDec _ | .cpAad _ | .cpEnc _ | .cpDec _ => 0xFFFFFEFF
  | .gcmTag _ | .gcmVerify _ | .gcmOpen _ => 0xFFF0FFFF
  | .nop | .zeroize | .nonceld | .aesKeyexp | .aesEnc | .aesDec | .chachaBlk | .hchacha | .chachaXor | .ctrXor
  | .cbcInit | .gf128Mul | .gcmInit | .poly1305 | .cpTag | .cpVerify => 0xFFFFFFFF

/-- The "match" column of 30_encoding.md R103, by command. -/
def tableMatch : Instr → U32
  | .nop => 0x00000000
  | .zeroize => 0x00000001
  | .keyld _ => 0x00000002
  | .nonceld => 0x00000003
  | .aesKeyexp => 0x00000010
  | .aesEnc => 0x00000011
  | .aesDec => 0x00000012
  | .chachaBlk => 0x00000020
  | .hchacha => 0x00000021
  | .chachaInit _ => 0x00000022
  | .chachaXor => 0x00000023
  | .ctrInit _ => 0x00000030
  | .ctrXor => 0x00000031
  | .cbcInit => 0x00000040
  | .cbcEnc _ _ => 0x00000041
  | .cbcDec _ _ => 0x00000042
  | .gf128Mul => 0x00000050
  | .gcmInit => 0x00000051
  | .gcmAad _ => 0x00000052
  | .gcmEnc _ => 0x00000053
  | .gcmDec _ => 0x00000054
  | .gcmTag _ => 0x00000055
  | .gcmVerify _ => 0x00000056
  | .gcmOpen _ => 0x00000057
  | .poly1305 => 0x00000060
  | .cpInit _ => 0x00000061
  | .cpAad _ => 0x00000062
  | .cpEnc _ => 0x00000063
  | .cpDec _ => 0x00000064
  | .cpTag => 0x00000065
  | .cpVerify => 0x00000066
  | .cpOpen _ => 0x00000067

/-- The command word the host lays out from `nbits` bits `w`, the bits above `nbits` being 0. A command is one
32-bit word (30_encoding.md R100), so a numbering by the opcode table is the word itself. -/
def wordOfTable (nbits w : Nat) : U32 := BitVec.ofNat 32 (w % 2 ^ nbits)

/-- The command the decoder reads from a word given as the opcode table numbers its bits; none where the decoder
refuses it. -/
def decodeTableWord (nbits w : Nat) : Option Instr :=
  match decode (wordOfTable nbits w) with
  | .ok i => some i
  | .error _ => none

end Sys2Proof
end

