-- ==== Sys2Proof/Machine/Aes.lean ====
section
/-! DEFINITION. The AES commands AES_KEYEXP, AES_ENC and AES_DEC (41_aes.md R155, R160, R161). -/

namespace Sys2Proof.Machine

open Sys2Proof

/-- The round-key bytes that AES_KEYEXP computes from KEY and KLEN (41_aes.md R155). -/
def State.schedule (s : State) : Bytes := (keyExpansion s.klen.nk (slice s.key.toList 0 s.klen.bytes)).flatten

/-- RK with a new schedule in its first words; the words past it keep their bytes, which no command reads (log
entry 7). -/
def loadSchedule (rk : Reg 240) (w : Bytes) : Reg 240 := toReg 240 (w ++ rk.toList.drop w.length)

/-- AES_KEYEXP (41_aes.md R155). -/
def execAesKeyexp (s : State) : Result :=
  require (s.klen ≠ .none) .nokey s <|
  finish 0 { s with rk := loadSchedule s.rk s.schedule, nr := s.klen.rounds, ksv := true }

/-- A one-block command: f of the block at A.SRC, written at A.DST (41_aes.md R160, R161). -/
def aesBlockCommand (f : Bytes → Bytes) (s : State) : Result :=
  require (s.ksv = true) .nokey s <|
  require (s.inBounds s.args.src 16 ∧ s.inBounds s.args.dst 16) .bounds s <|
  memRead s s.args.src 16 fun b =>
  finishWrite 16 s.args.dst (f b) s

/-- AES_ENC (41_aes.md R160). -/
def execAesEnc (s : State) : Result := aesBlockCommand s.aesEnc s

/-- AES_DEC (41_aes.md R161). -/
def execAesDec (s : State) : Result := aesBlockCommand s.aesDec s

end Sys2Proof.Machine
end

