-- ==== Sys2Proof/Machine/Cbc.lean ====
section
/-! DEFINITION. PKCS7 padding and the AES-CBC commands CBC_INIT, CBC_ENC and CBC_DEC (44_cbc.md R230 to R233). -/

namespace Sys2Proof.Machine

open Sys2Proof

/-- Pad(m): p = 16 - (|m| mod 16) bytes of value p (44_cbc.md R231). -/
def pkcs7Pad (m : Bytes) : Bytes :=
  m ++ List.replicate (16 - m.length % 16) (BitVec.ofNat 8 (16 - m.length % 16))

/-- p, the value of the last byte of q (44_cbc.md R231). -/
def padByte (q : Bytes) : Nat := (byteAt q (q.length - 1)).toNat

/-- The padding of q is valid: 1 <= p <= 16 and each of the last p bytes is p (44_cbc.md R231). -/
abbrev padValid (q : Bytes) : Prop :=
  1 ≤ padByte q ∧ padByte q ≤ 16 ∧ ∀ b ∈ q.drop (q.length - padByte q), b.toNat = padByte q

/-- Unpad(q) (44_cbc.md R231). -/
def pkcs7Unpad (q : Bytes) : Bytes := q.take (q.length - padByte q)

/-- CBC encryption of blocks from the chaining value c: the output, and the last chaining value (44_cbc.md R232). -/
def cbcEncrypt (enc : Bytes → Bytes) (c : Bytes) : List Bytes → Bytes × Bytes
  | [] => ([], c)
  | b :: bs =>
    let c' := enc (xorBytes b c)
    let r := cbcEncrypt enc c' bs
    (c' ++ r.1, r.2)

/-- CBC decryption of blocks from the chaining value c: the output, and the last chaining value (44_cbc.md R233). -/
def cbcDecrypt (dec : Bytes → Bytes) (c : Bytes) : List Bytes → Bytes × Bytes
  | [] => ([], c)
  | b :: bs =>
    let r := cbcDecrypt dec b bs
    (xorBytes (dec b) c ++ r.1, r.2)

/-- CBC_INIT (44_cbc.md R230). -/
def execCbcInit (s : State) : Result :=
  require (s.ksv = true) .nokey s <|
  require (s.nlen.val = 16) .arg s <|
  finish 0 { s with mode := .cbc, phase := .aad, ctx := { s.ctx with chain := toReg 16 s.nonce16 } }

/-- The phase after a CBC chunk: DONE if it was the last (44_cbc.md R232, R233). -/
def phaseAfterCbc (last : Bool) (p : Phase) : Phase := if last then .done else p

/-- outn: the length CBC_ENC writes (44_cbc.md R232). -/
def cbcOutLen (padded : Bool) (n : Nat) : Nat := if padded then n + 16 - n % 16 else n

/-- CBC_ENC (44_cbc.md R232). -/
def execCbcEnc (last pad : Bool) (s : State) : Result :=
  let n := s.argLen
  let padded := last && pad
  require (s.isOpen .cbc) .seq s <|
  require (padded = false → n % 16 = 0) .arg s <|
  require (s.inBounds s.args.src n ∧ s.inBounds s.args.dst (cbcOutLen padded n)) .bounds s <|
  memRead s s.args.src n fun d =>
  let m := if padded then pkcs7Pad d else d
  let r := cbcEncrypt s.aesEnc s.ctx.chain.toList (blocks16 (cbcOutLen padded n / 16) m)
  finishWrite (cbcOutLen padded n) s.args.dst r.1
    { s with phase := phaseAfterCbc last s.phase, ctx := { s.ctx with chain := toReg 16 r.2 } }

/-- CBC_DEC (44_cbc.md R233). A bad padding raises PAD with PHASE <- DONE and no other change (60_exceptions.md
R333). -/
def execCbcDec (last pad : Bool) (s : State) : Result :=
  let n := s.argLen
  let padded := last && pad
  require (s.isOpen .cbc) .seq s <|
  require (n % 16 = 0) .arg s <|
  require (padded = true → 16 ≤ n) .arg s <|
  require (s.inBounds s.args.src n ∧ s.inBounds s.args.dst n) .bounds s <|
  memRead s s.args.src n fun q =>
  let r := cbcDecrypt s.aesDec s.ctx.chain.toList (blocks16 (n / 16) q)
  require (padded = true → padValid r.1) .pad { s with phase := .done } <|
  let out := if padded then pkcs7Unpad r.1 else r.1
  finishWrite out.length s.args.dst out
    { s with phase := phaseAfterCbc last s.phase, ctx := { s.ctx with chain := toReg 16 r.2 } }

end Sys2Proof.Machine
end

