-- ==== Sys2Proof/Machine/ChachaCipher.lean ====
section
/-! DEFINITION. The ChaCha20 functions (42_chacha.md R180 to R183, R185, R186, R189). -/

namespace Sys2Proof.Machine

open Sys2Proof

/-- word(b, i) = LE(b[4i .. 4i+4)) (42_chacha.md R180). -/
def chachaWord (b : Bytes) (i : Nat) : U32 := BitVec.ofNat 32 (le (slice b (4 * i) (4 * i + 4)))

/-- The first n words of b. -/
def chachaWords (n : Nat) (b : Bytes) : List U32 := (List.range n).map (chachaWord b)

/-- SIGMA (42_chacha.md R180). -/
def sigma : List U32 := [0x61707865, 0x3320646E, 0x79622D32, 0x6B206574]

/-- QR(a, b, c, d) (42_chacha.md R181). -/
def quarterRound (a b c d : U32) : U32 × U32 × U32 × U32 :=
  let a := a + b
  let d := (d ^^^ a).rotateLeft 16
  let c := c + d
  let b := (b ^^^ c).rotateLeft 12
  let a := a + b
  let d := (d ^^^ a).rotateLeft 8
  let c := c + d
  let b := (b ^^^ c).rotateLeft 7
  (a, b, c, d)

/-- Word i of a ChaCha state. -/
def wordAt (x : List U32) (i : Nat) : U32 := x.getD i 0

/-- A quarter round on the words i, j, k, l of the state. -/
def quarterRoundAt (x : List U32) (i j k l : Nat) : List U32 :=
  match quarterRound (wordAt x i) (wordAt x j) (wordAt x k) (wordAt x l) with
  | (a, b, c, d) => (((x.set i a).set j b).set k c).set l d

/-- A column round and then a diagonal round (42_chacha.md R183). -/
def doubleRound (x : List U32) : List U32 :=
  let x := quarterRoundAt x 0 4 8 12
  let x := quarterRoundAt x 1 5 9 13
  let x := quarterRoundAt x 2 6 10 14
  let x := quarterRoundAt x 3 7 11 15
  let x := quarterRoundAt x 0 5 10 15
  let x := quarterRoundAt x 1 6 11 12
  let x := quarterRoundAt x 2 7 8 13
  quarterRoundAt x 3 4 9 14

/-- Rounds(x): ten double rounds (42_chacha.md R183). -/
def chachaRounds (x : List U32) : List U32 := doubleRound^[10] x

/-- The initial state of a key, a counter and a 12-byte nonce (42_chacha.md R182). -/
def chachaInitial (k : Bytes) (n : U32) (v : Bytes) : List U32 :=
  sigma ++ chachaWords 8 k ++ [n] ++ chachaWords 3 v

/-- LE4_bytes of each word in turn. -/
def serializeWords (x : List U32) : Bytes := x.flatMap fun w => leBytes 4 w.toNat

/-- ChaCha20Block(k, n, v), 64 bytes (42_chacha.md R183). -/
def chachaBlock (k : Bytes) (n : U32) (v : Bytes) : Bytes :=
  let s := chachaInitial k n v
  serializeWords (List.zipWith (· + ·) (chachaRounds s) s)

/-- KS(k, v)[j] (42_chacha.md R186). -/
def chachaKs (k v : Bytes) (j : Nat) : Byte := byteAt (chachaBlock k (BitVec.ofNat 32 (j / 64)) v) (j % 64)

/-- The keystream of one key and nonce has 2^38 bytes (42_chacha.md R186). -/
def chachaKsLen : Nat := 2 ^ 38

/-- HChaCha20(k, u), 32 bytes (42_chacha.md R185). -/
def hChacha20 (k u : Bytes) : Bytes :=
  let x := chachaRounds (sigma ++ chachaWords 8 k ++ chachaWords 4 u)
  serializeWords (slice x 0 4 ++ slice x 12 16)

/-- The stream key and the 12-byte stream nonce of a ChaCha20 (x = false) or XChaCha20 (x = true) stream
(42_chacha.md R187, R189, 46_poly1305_aead.md R291). -/
def streamKey (x : Bool) (key nonce : Bytes) : Bytes := if x then hChacha20 key (slice nonce 0 16) else key
def streamNonce (x : Bool) (nonce : Bytes) : Bytes :=
  if x then zeros 4 ++ slice nonce 16 24 else slice nonce 0 12

end Sys2Proof.Machine
end

