-- ==== Sys2Proof/Machine/Chacha.lean ====
section
/-! DEFINITION. The ChaCha20 commands CHACHA_BLK, HCHACHA, CHACHA_INIT and CHACHA_XOR (42_chacha.md R184, R185,
R187, R188). -/

namespace Sys2Proof.Machine

open Sys2Proof

/-- CHACHA_BLK (42_chacha.md R184). -/
def execChachaBlk (s : State) : Result :=
  require (s.klen = .k32) .nokey s <|
  require (s.nlen.val = 12) .arg s <|
  require (s.inBounds s.args.dst 64) .bounds s <|
  finishWrite 64 s.args.dst (chachaBlock s.key.toList s.args.aux0 (slice s.nonce.toList 0 12)) s

/-- HCHACHA (42_chacha.md R185). -/
def execHchacha (s : State) : Result :=
  require (s.klen = .k32) .nokey s <|
  require (s.inBounds s.args.src 16 ∧ s.inBounds s.args.dst 32) .bounds s <|
  memRead s s.args.src 16 fun u =>
  finishWrite 32 s.args.dst (hChacha20 s.key.toList u) s

/-- The stream key and stream nonce that an INIT derives from KEY and NONCE (42_chacha.md R187, R189). -/
def State.newStreamKey (s : State) (x : Bool) : Bytes := streamKey x s.key.toList s.nonce.toList
def State.newStreamNonce (s : State) (x : Bool) : Bytes := streamNonce x s.nonce.toList

/-- The keystream index k = 64 * A.AUX0 + A.AUX1, in unbounded integers (42_chacha.md R187). -/
def State.chachaIndex (s : State) : Nat := 64 * s.args.aux0.toNat + s.args.aux1.toNat

/-- CHACHA_INIT (42_chacha.md R187). -/
def execChachaInit (x : Bool) (s : State) : Result :=
  require (s.klen = .k32) .nokey s <|
  require (s.streamNonceOk x) .arg s <|
  require (s.chachaIndex ≤ chachaKsLen) .limit s <|
  finish 0 { s with
    mode := .chacha, phase := .aad,
    ctx := { s.ctx with
      skey := toReg 32 (s.newStreamKey x), snonce := toReg 12 (s.newStreamNonce x), kidx := s.chachaIndex } }

/-- The next n bytes of the ChaCha20 keystream of the context: KS(SKEY, SNONCE)[KIDX .. KIDX+n). -/
def State.chachaStream (s : State) (n : Nat) : Bytes :=
  keystreamSlice (chachaKs s.ctx.skey.toList s.ctx.snonce.toList) s.ctx.kidx n

/-- CHACHA_XOR (42_chacha.md R188). -/
def execChachaXor (s : State) : Result :=
  require (s.mode = .chacha) .seq s <|
  require (s.inBounds s.args.src s.argLen ∧ s.inBounds s.args.dst s.argLen) .bounds s <|
  require (s.ctx.kidx + s.argLen ≤ chachaKsLen) .limit s <|
  memRead s s.args.src s.argLen fun d =>
  finishWrite s.argLen s.args.dst (xorBytes d (s.chachaStream s.argLen))
    { s with ctx := { s.ctx with kidx := s.ctx.kidx + s.argLen } }

end Sys2Proof.Machine
end

