-- ==== Sys2Proof/Machine/Control.lean ====
section
/-! DEFINITION. The control commands NOP, ZEROIZE, KEYLD and NONCELD (40_control.md R130 to R133). -/

namespace Sys2Proof.Machine

open Sys2Proof

/-- NOP (40_control.md R130). -/
def execNop (s : State) : Result := finish 0 s

/-- Every key, nonce and context register at its reset value; DMEM and the argument registers stay
(40_control.md R131). -/
def State.zeroized (s : State) : State :=
  { s with
    key := Vector.replicate 32 0, klen := .none, rk := Vector.replicate 240 0, nr := 0, ksv := false,
    nonce := Vector.replicate 32 0, nlen := 0, mode := .none, phase := .aad, ctx := Context.reset }

/-- ZEROIZE (40_control.md R131). -/
def execZeroize (s : State) : Result := finish 0 s.zeroized

/-- KEYLD (40_control.md R132). -/
def execKeyld (kl : Nat) (s : State) : Result :=
  require (kl < 3) .arg s <|
  require (s.inBounds s.args.src (keyLenOf kl).bytes) .bounds s <|
  memRead s s.args.src (keyLenOf kl).bytes fun k =>
  finish 0 { s with key := toReg 32 k, klen := keyLenOf kl, ksv := false, mode := .none, phase := .aad }

/-- NONCELD (40_control.md R133). -/
def execNonceld (s : State) : Result :=
  require (s.argLen ≤ 32) .arg s <|
  require (s.inBounds s.args.src s.argLen) .bounds s <|
  memRead s s.args.src s.argLen fun v =>
  finish 0 { s with nonce := toReg 32 v, nlen := Fin.ofNat 33 s.argLen }

end Sys2Proof.Machine
end

