-- ==== Sys2Proof/Machine/PolyMac.lean ====
section
/-! DEFINITION. Poly1305 and the ChaCha20-Poly1305 construction (46_poly1305_aead.md R290, R291, R300). -/

namespace Sys2Proof.Machine

open Sys2Proof

/-- p = 2^130 - 5 (46_poly1305_aead.md R290). -/
def polyP : Nat := 2 ^ 130 - 5

/-- CLAMP (46_poly1305_aead.md R290). -/
def polyClamp : BitVec 128 := 0x0ffffffc0ffffffc0ffffffc0fffffff

/-- r and s of a 32-byte key (46_poly1305_aead.md R290). -/
def polyR (k : Bytes) : BitVec 128 := BitVec.ofNat 128 (le (slice k 0 16)) &&& polyClamp
def polyS (k : Bytes) : BitVec 128 := BitVec.ofNat 128 (le (slice k 16 32))

/-- The 16-byte chunks of m, the last of 1 to 16 bytes (46_poly1305_aead.md R290). -/
def polyChunks (m : Bytes) : List Bytes :=
  (List.range ((m.length + 15) / 16)).map fun i => slice m (16 * i) (16 * i + 16)

/-- One chunk into the accumulator (46_poly1305_aead.md R290). -/
def polyStep (r : BitVec 128) (acc : Nat) (q : Bytes) : Nat := ((acc + le q + 2 ^ (8 * q.length)) * r.toNat) % polyP

/-- PolyAbsorb(acc, r, m) (46_poly1305_aead.md R290). -/
def polyAbsorb (acc : Nat) (r : BitVec 128) (m : Bytes) : Nat := (polyChunks m).foldl (polyStep r) acc

/-- LE16_bytes((acc + s) mod 2^128) (46_poly1305_aead.md R290). -/
def polyFinish (acc : Nat) (s : BitVec 128) : Bytes := leBytes 16 ((acc + s.toNat) % 2 ^ 128)

/-- Poly1305(k, m) (46_poly1305_aead.md R290). -/
def poly1305Mac (k m : Bytes) : Bytes := polyFinish (polyAbsorb 0 (polyR k) m) (polyS k)

/-- The one-time key of a stream: the first 32 bytes of block 0 (46_poly1305_aead.md R291). -/
def oneTimeKey (sk sn : Bytes) : Bytes := slice (chachaBlock sk 0 sn) 0 32

/-- The length block of the AEAD: LE8_bytes of the two byte counts (46_poly1305_aead.md R291). -/
def cpLengths (lena lenc : Nat) : Bytes := leBytes 8 lena ++ leBytes 8 lenc

/-- Tag for a stream key, a stream nonce, AAD and ciphertext (46_poly1305_aead.md R291). -/
def cpTagOf (sk sn a c : Bytes) : Bytes :=
  poly1305Mac (oneTimeKey sk sn) (pad16 a ++ pad16 c ++ cpLengths a.length c.length)

/-- The bound on LENA of a CP stream (46_poly1305_aead.md R300). -/
def cpAadMax : Nat := 2 ^ 64 - 1

end Sys2Proof.Machine
end

