-- ==== Sys2Proof/Machine/Cp.lean ====
section
/-! DEFINITION. POLY1305 and the ChaCha20-Poly1305 commands (46_poly1305_aead.md R292 to R299). -/

namespace Sys2Proof.Machine

open Sys2Proof

/-- POLY1305 (46_poly1305_aead.md R292). -/
def execPoly1305 (s : State) : Result :=
  require (s.inBounds s.args.aux0 32 ∧ s.inBounds s.args.src s.argLen ∧ s.inBounds s.args.dst 16) .bounds s <|
  memRead s s.args.aux0 32 fun k =>
  memRead s s.args.src s.argLen fun m =>
  finishWrite 16 s.args.dst (poly1305Mac k m) s

/-- CP_INIT (46_poly1305_aead.md R293). -/
def execCpInit (x : Bool) (s : State) : Result :=
  let otk := oneTimeKey (s.newStreamKey x) (s.newStreamNonce x)
  require (s.klen = .k32) .nokey s <|
  require (s.streamNonceOk x) .arg s <|
  finish 0 { s with
    mode := .cp, phase := .aad,
    ctx := { s.ctx with
      skey := toReg 32 (s.newStreamKey x), snonce := toReg 12 (s.newStreamNonce x), kidx := 64,
      pr := polyR otk, ps := polyS otk, acc := 0, lena := 0, lenc := 0 } }

/-- ACC after Pad16 of the absorbed bytes d (46_poly1305_aead.md R294, R295). -/
def State.polyAbsorbed (s : State) (d : Bytes) : Nat := polyAbsorb s.ctx.acc s.ctx.pr (pad16 d)

/-- CP_AAD (46_poly1305_aead.md R294). -/
def execCpAad (last : Bool) (s : State) : Result :=
  require (s.takesAad .cp) .seq s <|
  require (chunkOk last s.argLen) .arg s <|
  require (s.inBounds s.args.src s.argLen) .bounds s <|
  require (s.ctx.lena + s.argLen ≤ cpAadMax) .limit s <|
  memRead s s.args.src s.argLen fun a =>
  finish 0 { s with
    phase := phaseAfterAad last s.phase,
    ctx := { s.ctx with acc := s.polyAbsorbed a, lena := s.ctx.lena + s.argLen } }

/-- A CP text command: the chunk is XORed with the keystream and written; the ciphertext, which `absorbed` picks out
of the input and the output, is absorbed (46_poly1305_aead.md R295, R296). -/
def cpTextCommand (absorbed : Bytes → Bytes → Bytes) (last : Bool) (s : State) : Result :=
  require (s.takesText .cp) .seq s <|
  require (chunkOk last s.argLen) .arg s <|
  require (s.inBounds s.args.src s.argLen ∧ s.inBounds s.args.dst s.argLen) .bounds s <|
  require (s.ctx.kidx + s.argLen ≤ chachaKsLen) .limit s <|
  memRead s s.args.src s.argLen fun d =>
  let o := xorBytes d (s.chachaStream s.argLen)
  finishWrite s.argLen s.args.dst o
    { s with
      phase := phaseAfterText last,
      ctx := { s.ctx with
        acc := s.polyAbsorbed (absorbed d o), kidx := s.ctx.kidx + s.argLen, lenc := s.ctx.lenc + s.argLen } }

/-- CP_ENC: the output is the ciphertext (46_poly1305_aead.md R295). -/
def execCpEnc (last : Bool) (s : State) : Result := cpTextCommand (fun _ o => o) last s

/-- CP_DEC: the input is the ciphertext (46_poly1305_aead.md R296). -/
def execCpDec (last : Bool) (s : State) : Result := cpTextCommand (fun d _ => d) last s

/-- The tag T of the context (46_poly1305_aead.md R297). -/
def State.cpTagNow (s : State) : Bytes :=
  polyFinish (polyAbsorb s.ctx.acc s.ctx.pr (cpLengths s.ctx.lena s.ctx.lenc)) s.ctx.ps

/-- CP_TAG (46_poly1305_aead.md R297). -/
def execCpTag (s : State) : Result :=
  require (s.isOpen .cp) .seq s <|
  require (s.inBounds s.args.dst 16) .bounds s <|
  finishWrite 16 s.args.dst s.cpTagNow { s with phase := .done }

/-- CP_VERIFY (46_poly1305_aead.md R298). -/
def execCpVerify (s : State) : Result :=
  require (s.isOpen .cp) .seq s <|
  require (s.inBounds s.args.tag 16) .bounds s <|
  memRead s s.args.tag 16 fun want =>
  require (constEq s.cpTagNow want = true) .auth { s with phase := .done } <|
  finish 0 { s with phase := .done }

/-- CP_OPEN (46_poly1305_aead.md R299). -/
def execCpOpen (x : Bool) (s : State) : Result :=
  require (s.klen = .k32) .nokey s <|
  require (s.streamNonceOk x) .arg s <|
  require (s.inBounds s.args.aad s.argAadLen ∧ s.inBounds s.args.src s.argLen ∧ s.inBounds s.args.tag 16 ∧
    s.inBounds s.args.dst s.argLen) .bounds s <|
  memRead s s.args.aad s.argAadLen fun a =>
  memRead s s.args.src s.argLen fun c =>
  memRead s s.args.tag 16 fun want =>
  require (constEq (cpTagOf (s.newStreamKey x) (s.newStreamNonce x) a c) want = true) .auth s <|
  finishWrite s.argLen s.args.dst
    (xorBytes c (keystreamSlice (chachaKs (s.newStreamKey x) (s.newStreamNonce x)) 64 s.argLen)) s

end Sys2Proof.Machine
end

