-- ==== Sys2Proof/Machine/Ghash.lean ====
section
/-! DEFINITION. GF(2^128), GHASH and the GCM counter blocks, keystream and tag (45_gcm.md R250, R251, R253, R262),
and the AES-CTR counter blocks and keystream (43_ctr.md R211). -/

namespace Sys2Proof.Machine

open Sys2Proof

/-- R = 0xE1 || zeros(15), as a 128-bit big-endian integer (45_gcm.md R250). -/
def gfR : BitVec 128 := 0xE1#128 <<< 120

/-- One round of GFMul on (Z, V), for bit i of X from the left (45_gcm.md R250). -/
def gfStep (x : BitVec 128) (zv : BitVec 128 × BitVec 128) (i : Nat) : BitVec 128 × BitVec 128 :=
  ( if x.getMsbD i then zv.1 ^^^ zv.2 else zv.1,
    if zv.2.getLsbD 0 then (zv.2 >>> 1) ^^^ gfR else zv.2 >>> 1 )

/-- GFMul on 128-bit big-endian integers (45_gcm.md R250). -/
def gfMul128 (x y : BitVec 128) : BitVec 128 := ((List.range 128).foldl (gfStep x) (0, y)).1

/-- X • Y on 16-byte blocks (45_gcm.md R250). -/
def gfMul (x y : Bytes) : Bytes :=
  beBytes 16 (gfMul128 (BitVec.ofNat 128 (be x)) (BitVec.ofNat 128 (be y))).toNat

/-- GHASH_H(Y, D) for a block string D (45_gcm.md R251). -/
def ghash (h y d : Bytes) : Bytes :=
  (blocks16 (d.length / 16) d).foldl (fun y b => gfMul (xorBytes y b) h) y

/-- inc32 applied k times: the last 32 bits advance by k modulo 2^32 (45_gcm.md R253). -/
def inc32By (k : Nat) (x : Bytes) : Bytes := slice x 0 12 ++ beBytes 4 ((be (slice x 12 16) + k) % 2 ^ 32)

/-- inc32(X) (45_gcm.md R253). -/
def inc32 (x : Bytes) : Bytes := inc32By 1 x

/-- J0 of the IV (45_gcm.md R253). -/
def gcmJ0 (h iv : Bytes) : Bytes :=
  if iv.length = 12 then iv ++ [0, 0, 0, 1]
  else ghash h (zeros 16) (pad16 iv ++ zeros 8 ++ beBytes 8 (8 * iv.length))

/-- KS_GCM[j] = AES_Encrypt(RK, inc32^(j div 16 + 1)(J0))[j mod 16] (45_gcm.md R253). -/
def gcmKs (rk : Bytes) (nr : Nat) (j0 : Bytes) (j : Nat) : Byte :=
  byteAt (aesEncrypt rk nr (inc32By (j / 16 + 1) j0)) (j % 16)

/-- FullTag of the running GHASH value Y and the two byte counts (45_gcm.md R253). -/
def gcmFullTag (rk : Bytes) (nr : Nat) (h j0 y : Bytes) (lena lenc : Nat) : Bytes :=
  xorBytes (aesEncrypt rk nr j0) (ghash h y (beBytes 8 (8 * lena) ++ beBytes 8 (8 * lenc)))

/-- The bounds on LENA and LENC of a GCM stream (45_gcm.md R262). -/
def gcmAadMax : Nat := 2 ^ 61 - 1
def gcmTextMax : Nat := 2 ^ 36 - 32

/-- c0 = BE(CTR0) AND (2^CW - 1), the initial counter field (43_ctr.md R211). -/
def ctrField (ctr0 : Bytes) (cw : Nat) : Nat := be ctr0 &&& (2 ^ cw - 1)

/-- LIM = 16 * (2^CW - c0), the length of the CTR keystream (43_ctr.md R211). -/
def ctrLimit (ctr0 : Bytes) (cw : Nat) : Nat := 16 * (2 ^ cw - ctrField ctr0 cw)

/-- CB(i) = BE16_bytes((v AND NOT m) OR (c0 + i)), with v = BE(CTR0) and m = 2^CW - 1 (43_ctr.md R211). -/
def ctrBlock (ctr0 : Bytes) (cw i : Nat) : Bytes :=
  let v := BitVec.ofNat 128 (be ctr0)
  let m := BitVec.ofNat 128 (2 ^ cw - 1)
  beBytes 16 ((v &&& ~~~m) ||| BitVec.ofNat 128 (ctrField ctr0 cw + i)).toNat

/-- KS_CTR[j] = AES_Encrypt(RK, CB(j div 16))[j mod 16] (43_ctr.md R211). -/
def ctrKs (rk : Bytes) (nr : Nat) (ctr0 : Bytes) (cw j : Nat) : Byte :=
  byteAt (aesEncrypt rk nr (ctrBlock ctr0 cw (j / 16))) (j % 16)

end Sys2Proof.Machine
end

