-- ==== Sys2Proof/Machine/Ctr.lean ====
section
/-! DEFINITION. The AES-CTR commands CTR_INIT and CTR_XOR (43_ctr.md R210, R212). -/

namespace Sys2Proof.Machine

open Sys2Proof

/-- The keystream index k = 16 * A.AUX0 + A.AUX1, in unbounded integers (43_ctr.md R210). -/
def State.ctrIndex (s : State) : Nat := 16 * s.args.aux0.toNat + s.args.aux1.toNat

/-- CTR_INIT (43_ctr.md R210). -/
def execCtrInit (cw : Nat) (s : State) : Result :=
  require (s.ksv = true) .nokey s <|
  require (s.nlen.val = 16) .arg s <|
  require (ctrWidthOk cw) .arg s <|
  require (s.ctrIndex ≤ ctrLimit s.nonce16 cw) .limit s <|
  finish 0 { s with
    mode := .ctr, phase := .aad,
    ctx := { s.ctx with ctr0 := toReg 16 s.nonce16, cw := BitVec.ofNat 8 cw, kidx := s.ctrIndex } }

/-- LIM of the context (43_ctr.md R211). -/
def State.ctrLim (s : State) : Nat := ctrLimit s.ctx.ctr0.toList s.ctx.cw.toNat

/-- The next n bytes of the CTR keystream of the context: KS_CTR[KIDX .. KIDX+n). -/
def State.ctrStream (s : State) (n : Nat) : Bytes :=
  keystreamSlice (ctrKs s.rk.toList s.nr s.ctx.ctr0.toList s.ctx.cw.toNat) s.ctx.kidx n

/-- CTR_XOR (43_ctr.md R212). -/
def execCtrXor (s : State) : Result :=
  require (s.mode = .ctr) .seq s <|
  require (s.inBounds s.args.src s.argLen ∧ s.inBounds s.args.dst s.argLen) .bounds s <|
  require (s.ctx.kidx + s.argLen ≤ s.ctrLim) .limit s <|
  memRead s s.args.src s.argLen fun d =>
  finishWrite s.argLen s.args.dst (xorBytes d (s.ctrStream s.argLen))
    { s with ctx := { s.ctx with kidx := s.ctx.kidx + s.argLen } }

end Sys2Proof.Machine
end

