-- ==== Sys2Proof/Machine/Gcm.lean ====
section
/-! DEFINITION. GF128_MUL and the AES-GCM commands (45_gcm.md R252, R254 to R256, R258 to R261). -/

namespace Sys2Proof.Machine

open Sys2Proof

/-- GF128_MUL (45_gcm.md R252). -/
def execGf128Mul (s : State) : Result :=
  require (s.inBounds s.args.src 16 ∧ s.inBounds s.args.aux0 16 ∧ s.inBounds s.args.dst 16) .bounds s <|
  memRead s s.args.src 16 fun x =>
  memRead s s.args.aux0 16 fun y =>
  finishWrite 16 s.args.dst (gfMul x y) s

/-- H = AES_Encrypt(RK, zeros(16)) and J0 of the loaded nonce (45_gcm.md R253, R254). -/
def State.newH (s : State) : Bytes := s.aesEnc (zeros 16)
def State.newJ0 (s : State) : Bytes := gcmJ0 s.newH s.nonceBytes

/-- GCM_INIT (45_gcm.md R254). -/
def execGcmInit (s : State) : Result :=
  require (s.ksv = true) .nokey s <|
  require s.gcmNonceOk .arg s <|
  finish 0 { s with
    mode := .gcm, phase := .aad,
    ctx := { s.ctx with
      h := toReg 16 s.newH, j0 := toReg 16 s.newJ0, y := toReg 16 (zeros 16), lena := 0, lenc := 0 } }

/-- Y after Pad16 of the absorbed bytes d (45_gcm.md R255, R256). -/
def State.ghashAbsorb (s : State) (d : Bytes) : Bytes := ghash s.ctx.h.toList s.ctx.y.toList (pad16 d)

/-- GCM_AAD (45_gcm.md R255). -/
def execGcmAad (last : Bool) (s : State) : Result :=
  require (s.takesAad .gcm) .seq s <|
  require (chunkOk last s.argLen) .arg s <|
  require (s.inBounds s.args.src s.argLen) .bounds s <|
  require (s.ctx.lena + s.argLen ≤ gcmAadMax) .limit s <|
  memRead s s.args.src s.argLen fun a =>
  finish 0 { s with
    phase := phaseAfterAad last s.phase,
    ctx := { s.ctx with y := toReg 16 (s.ghashAbsorb a), lena := s.ctx.lena + s.argLen } }

/-- KS_GCM[LENC .. LENC+n) of the context (45_gcm.md R253). -/
def State.gcmStream (s : State) (n : Nat) : Bytes :=
  keystreamSlice (gcmKs s.rk.toList s.nr s.ctx.j0.toList) s.ctx.lenc n

/-- A GCM text command: the chunk is XORed with the keystream and written; the ciphertext, which `absorbed` picks
out of the input and the output, is absorbed (45_gcm.md R256, R258). -/
def gcmTextCommand (absorbed : Bytes → Bytes → Bytes) (last : Bool) (s : State) : Result :=
  require (s.takesText .gcm) .seq s <|
  require (chunkOk last s.argLen) .arg s <|
  require (s.inBounds s.args.src s.argLen ∧ s.inBounds s.args.dst s.argLen) .bounds s <|
  require (s.ctx.lenc + s.argLen ≤ gcmTextMax) .limit s <|
  memRead s s.args.src s.argLen fun d =>
  let o := xorBytes d (s.gcmStream s.argLen)
  finishWrite s.argLen s.args.dst o
    { s with
      phase := phaseAfterText last,
      ctx := { s.ctx with y := toReg 16 (s.ghashAbsorb (absorbed d o)), lenc := s.ctx.lenc + s.argLen } }

/-- GCM_ENC: the output is the ciphertext (45_gcm.md R256). -/
def execGcmEnc (last : Bool) (s : State) : Result := gcmTextCommand (fun _ o => o) last s

/-- GCM_DEC: the input is the ciphertext (45_gcm.md R258). -/
def execGcmDec (last : Bool) (s : State) : Result := gcmTextCommand (fun d _ => d) last s

/-- FullTag of the context (45_gcm.md R253). -/
def State.gcmTagNow (s : State) : Bytes :=
  gcmFullTag s.rk.toList s.nr s.ctx.h.toList s.ctx.j0.toList s.ctx.y.toList s.ctx.lena s.ctx.lenc

/-- GCM_TAG (45_gcm.md R259). -/
def execGcmTag (tl : Nat) (s : State) : Result :=
  require (s.isOpen .gcm) .seq s <|
  require (tagLenOk tl) .arg s <|
  require (s.inBounds s.args.dst (tagLen tl)) .bounds s <|
  finishWrite (tagLen tl) s.args.dst (s.gcmTagNow.take (tagLen tl)) { s with phase := .done }

/-- GCM_VERIFY (45_gcm.md R260). -/
def execGcmVerify (tl : Nat) (s : State) : Result :=
  require (s.isOpen .gcm) .seq s <|
  require (tagLenOk tl) .arg s <|
  require (s.inBounds s.args.tag (tagLen tl)) .bounds s <|
  memRead s s.args.tag (tagLen tl) fun want =>
  require (constEq (s.gcmTagNow.take (tagLen tl)) want = true) .auth { s with phase := .done } <|
  finish 0 { s with phase := .done }

/-- The full tag that GCM_OPEN computes for AAD a and ciphertext c (45_gcm.md R261). -/
def State.gcmOpenTag (s : State) (a c : Bytes) : Bytes :=
  gcmFullTag s.rk.toList s.nr s.newH s.newJ0 (ghash s.newH (zeros 16) (pad16 a ++ pad16 c)) a.length c.length

/-- GCM_OPEN (45_gcm.md R261). -/
def execGcmOpen (tl : Nat) (s : State) : Result :=
  require (s.ksv = true) .nokey s <|
  require s.gcmNonceOk .arg s <|
  require (tagLenOk tl) .arg s <|
  require (s.inBounds s.args.aad s.argAadLen ∧ s.inBounds s.args.src s.argLen ∧
    s.inBounds s.args.tag (tagLen tl) ∧ s.inBounds s.args.dst s.argLen) .bounds s <|
  memRead s s.args.aad s.argAadLen fun a =>
  memRead s s.args.src s.argLen fun c =>
  memRead s s.args.tag (tagLen tl) fun want =>
  require (constEq ((s.gcmOpenTag a c).take (tagLen tl)) want = true) .auth s <|
  finishWrite s.argLen s.args.dst (xorBytes c (keystreamSlice (gcmKs s.rk.toList s.nr s.newJ0) 0 s.argLen)) s

end Sys2Proof.Machine
end

