-- ==== Sys2Proof/Machine/Dispatch.lean ====
section
/-! DEFINITION. The dispatch: one arm per command, each a call of that command's meaning. -/

namespace Sys2Proof.Machine

open Sys2Proof

/-- The meaning of a command in a state: the engine's one indivisible transition (20_memory.md R80). -/
def exec (i : Instr) (s : State) : Host.Outcome State Fault Refusal :=
  match i with
  | .nop => Sys2Proof.Machine.execNop s
  | .zeroize => Sys2Proof.Machine.execZeroize s
  | .keyld kl => Sys2Proof.Machine.execKeyld kl s
  | .nonceld => Sys2Proof.Machine.execNonceld s
  | .aesKeyexp => Sys2Proof.Machine.execAesKeyexp s
  | .aesEnc => Sys2Proof.Machine.execAesEnc s
  | .aesDec => Sys2Proof.Machine.execAesDec s
  | .chachaBlk => Sys2Proof.Machine.execChachaBlk s
  | .hchacha => Sys2Proof.Machine.execHchacha s
  | .chachaInit x => Sys2Proof.Machine.execChachaInit x s
  | .chachaXor => Sys2Proof.Machine.execChachaXor s
  | .ctrInit cw => Sys2Proof.Machine.execCtrInit cw s
  | .ctrXor => Sys2Proof.Machine.execCtrXor s
  | .cbcInit => Sys2Proof.Machine.execCbcInit s
  | .cbcEnc last pad => Sys2Proof.Machine.execCbcEnc last pad s
  | .cbcDec last pad => Sys2Proof.Machine.execCbcDec last pad s
  | .gf128Mul => Sys2Proof.Machine.execGf128Mul s
  | .gcmInit => Sys2Proof.Machine.execGcmInit s
  | .gcmAad last => Sys2Proof.Machine.execGcmAad last s
  | .gcmEnc last => Sys2Proof.Machine.execGcmEnc last s
  | .gcmDec last => Sys2Proof.Machine.execGcmDec last s
  | .gcmTag tl => Sys2Proof.Machine.execGcmTag tl s
  | .gcmVerify tl => Sys2Proof.Machine.execGcmVerify tl s
  | .gcmOpen tl => Sys2Proof.Machine.execGcmOpen tl s
  | .poly1305 => Sys2Proof.Machine.execPoly1305 s
  | .cpInit x => Sys2Proof.Machine.execCpInit x s
  | .cpAad last => Sys2Proof.Machine.execCpAad last s
  | .cpEnc last => Sys2Proof.Machine.execCpEnc last s
  | .cpDec last => Sys2Proof.Machine.execCpDec last s
  | .cpTag => Sys2Proof.Machine.execCpTag s
  | .cpVerify => Sys2Proof.Machine.execCpVerify s
  | .cpOpen x => Sys2Proof.Machine.execCpOpen x s

end Sys2Proof.Machine
end

