-- ==== Sys2Proof/Machine/Engine.lean ====
section
/-! DEFINITION. The engine's transition: the latched word is decoded and its command executed (30_encoding.md R107). -/

namespace Sys2Proof.Machine

open Sys2Proof

/-- The engine executes LATCH: the decoded command, or ILLEGAL for a word that decodes to none (10_state.md R54,
30_encoding.md R104, R105, R107). -/
def engineStep (s : State) : Result :=
  match decode s.latch with
  | .ok i => exec i s
  | .error _ => raiseErr .illegal s

end Sys2Proof.Machine
end

