-- ==== Sys2Proof/Machine/Step.lean ====
section
/-! DEFINITION. One step of the SCE and its host: the engine's transition, one host event, or an idle step. -/

namespace Sys2Proof.Machine

open Sys2Proof

/-- One step: whoever's turn it is moves (10_state.md R30, R54, 20_memory.md R81). -/
def step (s : State) : Host.Outcome State Fault Refusal :=
  match turn s with
  | .engine => engineStep s
  | .host => hostStep s
  | .idle => .next s

/-- s with the command word of `nbits` bits `w` latched and BUSY = 1, and no host event before the engine's
transition, so that the next step executes exactly that command (log entry 8). -/
def State.withFetchWord (s : State) (nbits w : Nat) : State :=
  { s with busy := true, latch := wordOfTable nbits w, inputs := [] }

end Sys2Proof.Machine
end

