-- ==== Sys2Proof/Machine/Assembler.lean ====
section
/-! DEFINITION. The assembler and the host operations of 30_encoding.md R109 to R111, on structured tokens in place of
text (log entry 11). -/

namespace Sys2Proof.Machine

open Sys2Proof

/-- A flag or a field of an assembly line (30_encoding.md R109). -/
inductive AsmArg where
  | last
  | pad
  | x
  | kl (n : Nat)
  | tl (n : Nat)
  | cw (n : Nat)
deriving DecidableEq, Repr

/-- The field of the word that a token sets, as its mask, and the bits it sets there; none for a value that R109 does
not list. -/
def AsmArg.bits : AsmArg → Option (U32 × U32)
  | .last => some (maskL, 0x00000100)
  | .pad => some (maskP, 0x00000200)
  | .x => some (maskX, 0x00000400)
  | .kl n =>
    if n = 128 then some (maskKL, 0x00000000)
    else if n = 192 then some (maskKL, 0x00001000)
    else if n = 256 then some (maskKL, 0x00002000)
    else if n = 3 then some (maskKL, 0x00003000)
    else none
  | .tl n => if 1 ≤ n ∧ n ≤ 16 then some (maskTL, BitVec.ofNat 32 (n - 1) <<< 16) else none
  | .cw n => if n ≤ 255 then some (maskCW, BitVec.ofNat 32 n <<< 24) else none

/-- The tokens of a line put into the word of its row; none where the mnemonic does not use one (30_encoding.md
R109). -/
def assembleArgs (fieldMask : U32) : List AsmArg → U32 → Option U32
  | [], w => some w
  | a :: rest, w =>
    match a.bits with
    | none => none
    | some (m, v) => if fieldMask &&& m = m then assembleArgs fieldMask rest ((w &&& ~~~m) ||| v) else none

/-- `MNEMONIC [flag ...] [name=value ...]` (30_encoding.md R109). -/
def assemble (mnemonic : String) (args : List AsmArg) : Option U32 :=
  match opcodeTable.find? fun r => r.mnemonic == mnemonic with
  | none => none
  | some r => assembleArgs r.fieldMask args (r.code.setWidth 32)

/-- The offset of a register as a window offset. -/
def HostReg.window (r : HostReg) : BitVec 17 := BitVec.ofNat 17 r.offset

/-- `wr REG, v` and `rd REG` (30_encoding.md R110). -/
def opWr (r : HostReg) (v : U32) : Input := .write 32 r.window v
def opRd (r : HostReg) : Input := .read 32 r.window

/-- `wb a, HEX`: 8-bit writes of the bytes to DMEM[a], DMEM[a+1], ... (30_encoding.md R110). For an address of 0x1_0000
or more, whose offset lies past the window, R110 gives no meaning; the offset is taken modulo 2^17 (DESIGN CHOICE, log
entry 19). -/
def opWb (a : Nat) (v : Bytes) : List Input :=
  (cellsFrom a v).map fun c => .write 8 (BitVec.ofNat 17 (dmemWindow + c.1)) (c.2.setWidth 32)

/-- `rb a, n`: 8-bit reads of DMEM[a..a+n) (30_encoding.md R110). An offset past the window is taken modulo 2^17, as for
`opWb` (DESIGN CHOICE, log entry 19). -/
def opRb (a n : Nat) : List Input :=
  (List.range n).map fun i => .read 8 (BitVec.ofNat 17 (dmemWindow + (a + i)))

/-- `cmd w` (30_encoding.md R110), for a command word. -/
def opCmd (w : U32) : Input := opWr .cmd w

/-- `run w`: `cmd w`, then `wait` (30_encoding.md R111). -/
def opRun (w : U32) : List Input := [opCmd w, .wait]

/-- `args NAME=v, ...` (30_encoding.md R111). -/
def opArgs (l : List (HostReg × U32)) : List Input := l.map fun p => opWr p.1 p.2

/-- `loadkey a, N`, for the key length code of N (30_encoding.md R111). -/
def opLoadKey (a : U32) (kl : Nat) : List Input := opWr .src a :: opRun (encode (.keyld kl))

/-- `loadaeskey a, N` (30_encoding.md R111). -/
def opLoadAesKey (a : U32) (kl : Nat) : List Input := opLoadKey a kl ++ opRun (encode .aesKeyexp)

/-- `loadnonce a, n` (30_encoding.md R111). -/
def opLoadNonce (a n : U32) : List Input := [opWr .src a, opWr .len n] ++ opRun (encode .nonceld)

/-- `expect E`: a STATUS read, and the program's assertion about its answer (30_encoding.md R111). -/
def opExpect : Input := opRd .status
abbrev expectHolds (e : ErrCode) (answer : U32) : Prop := answer.extractLsb' 4 4 = e.code

end Sys2Proof.Machine
end

