-- ==== Sys2Proof/Safety.lean ====
section
/-! DEFINITION. The terms in which claims about the SCE are stated: how a command ends, what it may write, which
registers the host can see, and the invariants (10_state.md R40 to R51, 20_memory.md R70, R76). -/

namespace Sys2Proof.Machine

open Sys2Proof

/-! ## How a command ends -/

/-- The command ends with error code e: ERRC (and with it ERR), OUTLEN <- 0 and BUSY <- 0 are all that changes
(60_exceptions.md R333, R334). -/
def Raises (i : Instr) (s : State) (e : ErrCode) : Prop :=
  exec i s = .next { s with errc := e, outlen := 0, busy := false }

/-- The command succeeds: u is the state with its register writes and its MemWrite, and OUTLEN is n
(60_exceptions.md R334). -/
def Succeeds (i : Instr) (s : State) (n : Nat) (u : State) : Prop :=
  exec i s = .next { u with errc := .none, outlen := BitVec.ofNat 32 n, busy := false }

/-- The command passed all its checks and reads an unwritten DMEM byte (20_memory.md R76). -/
def FaultsUnwritten (i : Instr) (s : State) : Prop := exec i s = .fault .unwrittenDmem

/-- MemRead of n bytes at a has the value v (20_memory.md R77). -/
abbrev State.Holds (s : State) (a : U32) (n : Nat) (v : Bytes) : Prop := s.dmem.readBytes a.toNat n = some v

/-- One of the n bytes at a is unwritten (20_memory.md R76). -/
abbrev State.Unwritten (s : State) (a : U32) (n : Nat) : Prop := s.dmem.readBytes a.toNat n = none

/-- A latched word with OP `op` that sets a bit outside the mask of its row raises ILLEGAL and changes nothing else
(30_encoding.md R103, R104). -/
def IllegalOutside (op : Nat) (mask : U32) : Prop :=
  ∀ s : State, s.latch.toNat % 256 = op → (s.latch &&& mask).toNat ≠ op →
    engineStep s = .next { s with errc := .illegal, outlen := 0, busy := false }

/-! ## What a command may write -/

/-- The commands that write KEY and KLEN (10_state.md R40). -/
def writesKey : Instr → Bool
  | .zeroize | .keyld _ => true
  | _ => false

/-- The commands that write RK and Nr (10_state.md R41). -/
def writesSchedule : Instr → Bool
  | .zeroize | .aesKeyexp => true
  | _ => false

/-- The commands that write KSV (10_state.md R41). -/
def writesKsv : Instr → Bool
  | .zeroize | .keyld _ | .aesKeyexp => true
  | _ => false

/-- The commands that write NONCE and NLEN (10_state.md R42). -/
def writesNonce : Instr → Bool
  | .zeroize | .nonceld => true
  | _ => false

/-- The commands that write MODE (10_state.md R43). -/
def writesMode : Instr → Bool
  | .zeroize | .keyld _ | .chachaInit _ | .ctrInit _ | .cbcInit | .gcmInit | .cpInit _ => true
  | _ => false

/-- The commands that write PHASE (10_state.md R50 and the command rules). -/
def writesPhase : Instr → Bool
  | .zeroize | .keyld _ | .chachaInit _ | .ctrInit _ | .cbcInit | .gcmInit | .cpInit _ | .cbcEnc _ _ | .cbcDec _ _
  | .gcmAad _ | .gcmEnc _ | .gcmDec _ | .gcmTag _ | .gcmVerify _ | .cpAad _ | .cpEnc _ | .cpDec _ | .cpTag
  | .cpVerify => true
  | _ => false

/-- The commands that write DMEM, the range that starts at A.DST (20_memory.md R79). -/
def storesToDmem : Instr → Bool
  | .aesEnc | .aesDec | .chachaBlk | .hchacha | .chachaXor | .ctrXor | .cbcEnc _ _ | .cbcDec _ _ | .gf128Mul
  | .gcmEnc _ | .gcmDec _ | .gcmTag _ | .gcmOpen _ | .poly1305 | .cpEnc _ | .cpDec _ | .cpTag | .cpOpen _ => true
  | _ => false

/-- The context d after a command differs from the context c before it in the fields the command writes only
(10_state.md R43: the other fields keep their values). -/
def ctxFrame (i : Instr) (c d : Context) : Prop :=
  match i with
  | .zeroize => True
  | .chachaInit _ => d = { c with skey := d.skey, snonce := d.snonce, kidx := d.kidx }
  | .ctrInit _ => d = { c with ctr0 := d.ctr0, cw := d.cw, kidx := d.kidx }
  | .chachaXor | .ctrXor => d = { c with kidx := d.kidx }
  | .cbcInit | .cbcEnc _ _ | .cbcDec _ _ => d = { c with chain := d.chain }
  | .gcmInit => d = { c with h := d.h, j0 := d.j0, y := d.y, lena := d.lena, lenc := d.lenc }
  | .gcmAad _ => d = { c with y := d.y, lena := d.lena }
  | .gcmEnc _ | .gcmDec _ => d = { c with y := d.y, lenc := d.lenc }
  | .cpInit _ =>
    d = { c with
      skey := d.skey, snonce := d.snonce, kidx := d.kidx, pr := d.pr, ps := d.ps, acc := d.acc, lena := d.lena,
      lenc := d.lenc }
  | .cpAad _ => d = { c with acc := d.acc, lena := d.lena }
  | .cpEnc _ | .cpDec _ => d = { c with acc := d.acc, kidx := d.kidx, lenc := d.lenc }
  | .nop | .keyld _ | .nonceld | .aesKeyexp | .aesEnc | .aesDec | .chachaBlk | .hchacha | .gf128Mul | .gcmTag _
  | .gcmVerify _ | .gcmOpen _ | .poly1305 | .cpTag | .cpVerify | .cpOpen _ => d = c

/-! ## What the host can see -/

/-- The two states agree on everything the host can read with BUSY = 0: DMEM, the argument registers, OUTLEN and the
registers that STATUS mirrors (10_state.md R52). -/
structure SameVisible (s u : State) : Prop where
  cfg : s.cfg = u.cfg
  args : s.args = u.args
  errc : s.errc = u.errc
  outlen : s.outlen = u.outlen
  klen : s.klen = u.klen
  ksv : s.ksv = u.ksv
  nlen : s.nlen = u.nlen
  mode : s.mode = u.mode
  phase : s.phase = u.phase
  dmem : s.dmem = u.dmem

/-- The engine registers of the two states are equal: everything of the SCE but BUSY, LATCH, the argument registers and
DMEM. -/
structure SameEngine (s u : State) : Prop where
  cfg : s.cfg = u.cfg
  errc : s.errc = u.errc
  outlen : s.outlen = u.outlen
  key : s.key = u.key
  klen : s.klen = u.klen
  rk : s.rk = u.rk
  nr : s.nr = u.nr
  ksv : s.ksv = u.ksv
  nonce : s.nonce = u.nonce
  nlen : s.nlen = u.nlen
  mode : s.mode = u.mode
  phase : s.phase = u.phase
  ctx : s.ctx = u.ctx

/-! ## Invariants -/

/-- DMEM is in canonical form and holds no byte at or above DMEM_SIZE (20_memory.md R70, R76). -/
structure DmemInv (s : State) : Prop where
  wf : s.dmem.wf = true
  below : s.dmem.below s.dmemSize = true

/-- The key registers: bytes past KLEN and past NLEN are zero (10_state.md R40, R42), KSV = 1 means that a key is
loaded and that RK and Nr are its expansion (R41), and a mode needs its key state (R45). -/
structure KeyInv (s : State) : Prop where
  keyTail : s.key.toList.drop s.klen.bytes = zeros (32 - s.klen.bytes)
  nonceTail : s.nonce.toList.drop s.nlen.val = zeros (32 - s.nlen.val)
  expanded : s.ksv = true →
    s.klen ≠ .none ∧ s.nr = s.klen.rounds ∧ s.rk.toList.take (16 * (s.nr + 1)) = s.schedule
  aesMode : s.mode = .ctr ∨ s.mode = .cbc ∨ s.mode = .gcm → s.ksv = true
  chachaMode : s.mode = .chacha ∨ s.mode = .cp → s.klen = .k32

/-- The stream registers stay inside the bounds of 10_state.md R44, R46, R47, R49 and R51, `KIDX = 64 + LENC` in a CP
stream (R51), the PR register is clamped (R51), and PHASE is 0 where it is unused (R50). -/
structure StreamInv (s : State) : Prop where
  kidxWidth : s.ctx.kidx ≤ 2 ^ 132
  lenaWidth : s.ctx.lena < 2 ^ 64
  lencWidth : s.ctx.lenc < 2 ^ 64
  accWidth : s.ctx.acc < 2 ^ 130 - 5
  chacha : s.mode = .chacha → s.ctx.kidx ≤ 2 ^ 38
  ctrWidth : s.mode = .ctr → 1 ≤ s.ctx.cw.toNat ∧ s.ctx.cw.toNat ≤ 128
  ctr : s.mode = .ctr → s.ctx.kidx ≤ ctrLimit s.ctx.ctr0.toList s.ctx.cw.toNat
  gcm : s.mode = .gcm → s.ctx.lena ≤ 2 ^ 61 - 1 ∧ s.ctx.lenc ≤ 2 ^ 36 - 32
  cp : s.mode = .cp → s.ctx.kidx = 64 + s.ctx.lenc ∧ s.ctx.kidx ≤ 2 ^ 38
  clamped : s.ctx.pr &&& polyClamp = s.ctx.pr
  phaseUnused : s.mode = .none ∨ s.mode = .chacha ∨ s.mode = .ctr → s.phase = .aad
  phaseCbc : s.mode = .cbc → s.phase = .aad ∨ s.phase = .done

/-- H is AES(K, 0^16) in a GCM stream (10_state.md R49), and PR and PS are the one-time key of SKEY and SNONCE in a CP
stream (46_poly1305_aead.md R293). -/
structure DerivedKeyInv (s : State) : Prop where
  keys : KeyInv s
  gcmH : s.mode = .gcm → s.ctx.h.toList = s.aesEnc (zeros 16)
  cpKey : s.mode = .cp →
    s.ctx.pr = polyR (oneTimeKey s.ctx.skey.toList s.ctx.snonce.toList) ∧
    s.ctx.ps = polyS (oneTimeKey s.ctx.skey.toList s.ctx.snonce.toList)

end Sys2Proof.Machine
end

