-- ==== Sys2Proof/Certificates/Slice0/Obligations.lean ====
section
/-! DEFINITION. The statements about the SCE, from the numbered rules of spec/. A command statement takes its rule
whole: the words that are illegal for its OP, the words that decode to the command, each error in the rule's order, the
model fault on an unwritten byte of an input range, and the next state on success. -/

open Sys2Proof Sys2Proof.Machine

/-! ## Control commands (40_control.md) -/

/-- 40_control.md R130 and R131: NOP changes nothing but ERRC and OUTLEN; ZEROIZE clears every key, nonce, schedule
and context register and leaves DMEM and the argument registers. Neither raises an error but ILLEGAL. -/
def Obligations.NopAndZeroizeRules : Prop :=
  IllegalOutside 0x00 0xFFFFFFFF ∧ IllegalOutside 0x01 0xFFFFFFFF ∧
  decode 0x00000000 = .ok .nop ∧ decode 0x00000001 = .ok .zeroize ∧
  ∀ s : State,
    Succeeds .nop s 0 s ∧
    ∃ (k n : Reg 32) (r : Reg 240),
      k.toList = zeros 32 ∧ n.toList = zeros 32 ∧ r.toList = zeros 240 ∧
      Succeeds .zeroize s 0 { s with
        key := k, klen := .none, rk := r, nr := 0, ksv := false, nonce := n, nlen := 0, mode := .none, phase := .aad,
        ctx := Context.reset }

/-- 40_control.md R132: KEYLD. -/
def Obligations.KeyldRule : Prop :=
  IllegalOutside 0x02 0xFFFFCFFF ∧
  (∀ kl : Nat, kl < 4 → decode (0x00000002 ||| BitVec.ofNat 32 kl <<< 12) = .ok (.keyld kl)) ∧
  ∀ s : State,
    Raises (.keyld 3) s .arg ∧
    ∀ (kl n : Nat) (len : KeyLen),
      (kl = 0 ∧ n = 16 ∧ len = .k16) ∨ (kl = 1 ∧ n = 24 ∧ len = .k24) ∨ (kl = 2 ∧ n = 32 ∧ len = .k32) →
      (¬ s.inBounds s.args.src n → Raises (.keyld kl) s .bounds) ∧
      (s.inBounds s.args.src n → s.Unwritten s.args.src n → FaultsUnwritten (.keyld kl) s) ∧
      (∀ k : Bytes, s.inBounds s.args.src n → s.Holds s.args.src n k →
        ∃ r : Reg 32, r.toList = k ++ zeros (32 - n) ∧
          Succeeds (.keyld kl) s 0 { s with key := r, klen := len, ksv := false, mode := .none, phase := .aad })

/-- 40_control.md R133: NONCELD. -/
def Obligations.NonceldRule : Prop :=
  IllegalOutside 0x03 0xFFFFFFFF ∧
  decode 0x00000003 = .ok .nonceld ∧
  ∀ (s : State) (n : Nat), n = s.args.len.toNat →
    (32 < n → Raises .nonceld s .arg) ∧
    (n ≤ 32 → ¬ s.inBounds s.args.src n → Raises .nonceld s .bounds) ∧
    (n ≤ 32 → s.inBounds s.args.src n → s.Unwritten s.args.src n → FaultsUnwritten .nonceld s) ∧
    (∀ v : Bytes, n ≤ 32 → s.inBounds s.args.src n → s.Holds s.args.src n v →
      ∃ (r : Reg 32) (m : Fin 33), r.toList = v ++ zeros (32 - n) ∧ m.val = n ∧
        Succeeds .nonceld s 0 { s with nonce := r, nlen := m })

/-! ## AES (41_aes.md) -/

/-- 41_aes.md R155: AES_KEYEXP. The schedule is the list of words `w` with the rule's recurrence: w[i] is KEY[4i ..
4i+4) for i < Nk, and w[i-Nk] xor t after that. -/
def Obligations.AesKeyexpRule : Prop :=
  IllegalOutside 0x10 0xFFFFFFFF ∧
  decode 0x00000010 = .ok .aesKeyexp ∧
  ∀ s : State,
    (s.klen = .none → Raises .aesKeyexp s .nokey) ∧
    ∀ nk : Nat, (s.klen = .k16 ∧ nk = 4) ∨ (s.klen = .k24 ∧ nk = 6) ∨ (s.klen = .k32 ∧ nk = 8) →
      ∃ (w : List Bytes) (r : Reg 240),
        w.length = 4 * (nk + 6 + 1) ∧
        (∀ i < nk, w.getD i [] = slice s.key.toList (4 * i) (4 * i + 4)) ∧
        (∀ i < 4 * (nk + 6 + 1), nk ≤ i →
          w.getD i [] = xorBytes (w.getD (i - nk) [])
            (if i % nk = 0 then xorBytes (subWord (rotWord (w.getD (i - 1) []))) (rcon (i / nk))
             else if nk = 8 ∧ i % 8 = 4 then subWord (w.getD (i - 1) [])
             else w.getD (i - 1) [])) ∧
        r.toList.take (16 * (nk + 6 + 1)) = w.flatten ∧
        Succeeds .aesKeyexp s 0 { s with rk := r, nr := nk + 6, ksv := true }

/-- 41_aes.md R160 and R161: AES_ENC and AES_DEC. -/
def Obligations.AesBlockRules : Prop :=
  IllegalOutside 0x11 0xFFFFFFFF ∧ IllegalOutside 0x12 0xFFFFFFFF ∧
  decode 0x00000011 = .ok .aesEnc ∧ decode 0x00000012 = .ok .aesDec ∧
  ∀ (i : Instr) (f : Bytes → Nat → Bytes → Bytes),
    (i = .aesEnc ∧ f = aesEncrypt) ∨ (i = .aesDec ∧ f = aesDecrypt) →
    ∀ s : State,
      (s.ksv = false → Raises i s .nokey) ∧
      (s.ksv = true → ¬ (s.inBounds s.args.src 16 ∧ s.inBounds s.args.dst 16) → Raises i s .bounds) ∧
      (s.ksv = true → s.inBounds s.args.src 16 → s.inBounds s.args.dst 16 → s.Unwritten s.args.src 16 →
        FaultsUnwritten i s) ∧
      (∀ b : Bytes, s.ksv = true → s.inBounds s.args.src 16 → s.inBounds s.args.dst 16 →
        s.Holds s.args.src 16 b →
        Succeeds i s 16 { s with dmem := s.dmem.write s.args.dst.toNat (f s.rk.toList s.nr b) })

/-- 41_aes.md R159: the inverse cipher undoes the cipher, for every schedule and every block. -/
def Obligations.AesDecryptInvertsEncrypt : Prop :=
  ∀ (rk : Bytes) (nr : Nat) (b : Bytes), b.length = 16 → aesDecrypt rk nr (aesEncrypt rk nr b) = b

/-- 41_aes.md R152 and R153: the S-box is the affine map of the inverse in GF(2^8), and InvS undoes it. -/
def Obligations.SboxTablesFollowFormula : Prop :=
  ∀ x : Byte,
    invSbox (sbox x) = x ∧
    ∃ b : Byte, (x = 0 ∧ b = 0 ∨ x ≠ 0 ∧ gfMul8 x b = 1) ∧
      ∀ i < 8, (sbox x).getLsbD i =
        (b.getLsbD i ^^ b.getLsbD ((i + 4) % 8) ^^ b.getLsbD ((i + 5) % 8) ^^ b.getLsbD ((i + 6) % 8) ^^
          b.getLsbD ((i + 7) % 8) ^^ (0x63 : Byte).getLsbD i)

/-! ## ChaCha20 (42_chacha.md) -/

/-- 42_chacha.md R184: CHACHA_BLK. -/
def Obligations.ChachaBlkRule : Prop :=
  IllegalOutside 0x20 0xFFFFFFFF ∧
  decode 0x00000020 = .ok .chachaBlk ∧
  ∀ s : State,
    (s.klen ≠ .k32 → Raises .chachaBlk s .nokey) ∧
    (s.klen = .k32 → s.nlen.val ≠ 12 → Raises .chachaBlk s .arg) ∧
    (s.klen = .k32 → s.nlen.val = 12 → ¬ s.inBounds s.args.dst 64 → Raises .chachaBlk s .bounds) ∧
    (s.klen = .k32 → s.nlen.val = 12 → s.inBounds s.args.dst 64 →
      Succeeds .chachaBlk s 64 { s with
        dmem := s.dmem.write s.args.dst.toNat
          (chachaBlock s.key.toList s.args.aux0 (slice s.nonce.toList 0 12)) })

/-- 42_chacha.md R185: HCHACHA. -/
def Obligations.HchachaRule : Prop :=
  IllegalOutside 0x21 0xFFFFFFFF ∧
  decode 0x00000021 = .ok .hchacha ∧
  ∀ s : State,
    (s.klen ≠ .k32 → Raises .hchacha s .nokey) ∧
    (s.klen = .k32 → ¬ (s.inBounds s.args.src 16 ∧ s.inBounds s.args.dst 32) → Raises .hchacha s .bounds) ∧
    (s.klen = .k32 → s.inBounds s.args.src 16 → s.inBounds s.args.dst 32 → s.Unwritten s.args.src 16 →
      FaultsUnwritten .hchacha s) ∧
    (∀ (u : Bytes) (x : List U32), s.klen = .k32 → s.inBounds s.args.src 16 → s.inBounds s.args.dst 32 →
      s.Holds s.args.src 16 u → x = chachaRounds (sigma ++ chachaWords 8 s.key.toList ++ chachaWords 4 u) →
      Succeeds .hchacha s 32 { s with
        dmem := s.dmem.write s.args.dst.toNat
          ((slice x 0 4 ++ slice x 12 16).flatMap fun w => leBytes 4 w.toNat) })

/-- 42_chacha.md R187: CHACHA_INIT. -/
def Obligations.ChachaInitRule : Prop :=
  IllegalOutside 0x22 0xFFFFFBFF ∧
  decode 0x00000022 = .ok (.chachaInit false) ∧ decode 0x00000422 = .ok (.chachaInit true) ∧
  ∀ (s : State) (x : Bool) (k : Nat), k = 64 * s.args.aux0.toNat + s.args.aux1.toNat →
    (s.klen ≠ .k32 → Raises (.chachaInit x) s .nokey) ∧
    (s.klen = .k32 → s.nlen.val ≠ (if x then 24 else 12) → Raises (.chachaInit x) s .arg) ∧
    (s.klen = .k32 → s.nlen.val = (if x then 24 else 12) → 2 ^ 38 < k → Raises (.chachaInit x) s .limit) ∧
    (s.klen = .k32 → s.nlen.val = (if x then 24 else 12) → k ≤ 2 ^ 38 →
      ∃ (sk : Reg 32) (sn : Reg 12),
        sk.toList = (if x then hChacha20 s.key.toList (slice s.nonce.toList 0 16) else s.key.toList) ∧
        sn.toList = (if x then zeros 4 ++ slice s.nonce.toList 16 24 else slice s.nonce.toList 0 12) ∧
        Succeeds (.chachaInit x) s 0 { s with
          mode := .chacha, phase := .aad, ctx := { s.ctx with skey := sk, snonce := sn, kidx := k } })

/-- 42_chacha.md R188: CHACHA_XOR. -/
def Obligations.ChachaXorRule : Prop :=
  IllegalOutside 0x23 0xFFFFFFFF ∧
  decode 0x00000023 = .ok .chachaXor ∧
  ∀ (s : State) (n : Nat), n = s.args.len.toNat →
    (s.mode ≠ .chacha → Raises .chachaXor s .seq) ∧
    (s.mode = .chacha → ¬ (s.inBounds s.args.src n ∧ s.inBounds s.args.dst n) → Raises .chachaXor s .bounds) ∧
    (s.mode = .chacha → s.inBounds s.args.src n → s.inBounds s.args.dst n → 2 ^ 38 < s.ctx.kidx + n →
      Raises .chachaXor s .limit) ∧
    (s.mode = .chacha → s.inBounds s.args.src n → s.inBounds s.args.dst n → s.ctx.kidx + n ≤ 2 ^ 38 →
      s.Unwritten s.args.src n → FaultsUnwritten .chachaXor s) ∧
    (∀ d : Bytes, s.mode = .chacha → s.inBounds s.args.src n → s.inBounds s.args.dst n →
      s.ctx.kidx + n ≤ 2 ^ 38 → s.Holds s.args.src n d →
      Succeeds .chachaXor s n { s with
        dmem := s.dmem.write s.args.dst.toNat
          (xorBytes d (keystreamSlice (chachaKs s.ctx.skey.toList s.ctx.snonce.toList) s.ctx.kidx n)),
        ctx := { s.ctx with kidx := s.ctx.kidx + n } })

/-- 42_chacha.md R188, chunking: two CHACHA_XOR commands of lengths n1 and n2 over consecutive ranges leave the same
DMEM bytes and the same context as one command of length n1 + n2, where the destination does not start inside the
source past its first byte: in place, A.DST below A.SRC, or disjoint ranges. -/
def Obligations.ChachaXorChunksAgree : Prop :=
  ∀ (s t : State) (a b : U32) (n1 n2 : Nat),
    n1 + n2 < 2 ^ 32 →
    b.toNat ≤ a.toNat ∨ a.toNat + (n1 + n2) ≤ b.toNat →
    exec .chachaXor
      { s with args := { s.args with src := a, dst := b, len := BitVec.ofNat 32 (n1 + n2) } } = .next t →
    t.errc = .none →
    ∃ u v : State,
      exec .chachaXor { s with args := { s.args with src := a, dst := b, len := BitVec.ofNat 32 n1 } } = .next u ∧
      exec .chachaXor { u with args := { u.args with
        src := a + BitVec.ofNat 32 n1, dst := b + BitVec.ofNat 32 n1, len := BitVec.ofNat 32 n2 } } = .next v ∧
      v.errc = .none ∧ v.ctx = t.ctx ∧ ∀ x : Nat, v.dmem.read x = t.dmem.read x

/-! ## AES-CTR (43_ctr.md) -/

/-- 43_ctr.md R210: CTR_INIT. -/
def Obligations.CtrInitRule : Prop :=
  IllegalOutside 0x30 0x00FFFFFF ∧
  (∀ cw : Nat, cw < 256 → decode (0x00000030 ||| BitVec.ofNat 32 cw <<< 24) = .ok (.ctrInit cw)) ∧
  ∀ (s : State) (cw k c0 : Nat), k = 16 * s.args.aux0.toNat + s.args.aux1.toNat →
    c0 = be (slice s.nonce.toList 0 16) % 2 ^ cw →
    (s.ksv = false → Raises (.ctrInit cw) s .nokey) ∧
    (s.ksv = true → s.nlen.val ≠ 16 → Raises (.ctrInit cw) s .arg) ∧
    (s.ksv = true → s.nlen.val = 16 → ¬ (1 ≤ cw ∧ cw ≤ 128) → Raises (.ctrInit cw) s .arg) ∧
    (s.ksv = true → s.nlen.val = 16 → 1 ≤ cw → cw ≤ 128 → 16 * (2 ^ cw - c0) < k →
      Raises (.ctrInit cw) s .limit) ∧
    (s.ksv = true → s.nlen.val = 16 → 1 ≤ cw → cw ≤ 128 → k ≤ 16 * (2 ^ cw - c0) →
      ∃ (c : Reg 16) (w : BitVec 8), c.toList = slice s.nonce.toList 0 16 ∧ w.toNat = cw ∧
        Succeeds (.ctrInit cw) s 0 { s with
          mode := .ctr, phase := .aad, ctx := { s.ctx with ctr0 := c, cw := w, kidx := k } })

/-- 43_ctr.md R212: CTR_XOR. -/
def Obligations.CtrXorRule : Prop :=
  IllegalOutside 0x31 0xFFFFFFFF ∧
  decode 0x00000031 = .ok .ctrXor ∧
  ∀ (s : State) (n lim : Nat), n = s.args.len.toNat →
    lim = 16 * (2 ^ s.ctx.cw.toNat - be s.ctx.ctr0.toList % 2 ^ s.ctx.cw.toNat) →
    (s.mode ≠ .ctr → Raises .ctrXor s .seq) ∧
    (s.mode = .ctr → ¬ (s.inBounds s.args.src n ∧ s.inBounds s.args.dst n) → Raises .ctrXor s .bounds) ∧
    (s.mode = .ctr → s.inBounds s.args.src n → s.inBounds s.args.dst n → lim < s.ctx.kidx + n →
      Raises .ctrXor s .limit) ∧
    (s.mode = .ctr → s.inBounds s.args.src n → s.inBounds s.args.dst n → s.ctx.kidx + n ≤ lim →
      s.Unwritten s.args.src n → FaultsUnwritten .ctrXor s) ∧
    (∀ d : Bytes, s.mode = .ctr → s.inBounds s.args.src n → s.inBounds s.args.dst n → s.ctx.kidx + n ≤ lim →
      s.Holds s.args.src n d →
      Succeeds .ctrXor s n { s with
        dmem := s.dmem.write s.args.dst.toNat
          (xorBytes d
            (keystreamSlice (ctrKs s.rk.toList s.nr s.ctx.ctr0.toList s.ctx.cw.toNat) s.ctx.kidx n)),
        ctx := { s.ctx with kidx := s.ctx.kidx + n } })

/-- 43_ctr.md R211: while the counter field does not pass its maximum, CB(i) is the initial block plus i as a 128-bit
big-endian integer, so it keeps the fixed part, never wraps, and no two of the blocks are equal. -/
def Obligations.CtrBlocksNeverWrap : Prop :=
  ∀ (ctr0 : Bytes) (cw i j : Nat), ctr0.length = 16 → 1 ≤ cw → cw ≤ 128 →
    be ctr0 % 2 ^ cw + i < 2 ^ cw → be ctr0 % 2 ^ cw + j < 2 ^ cw →
    be (ctrBlock ctr0 cw i) = be ctr0 + i ∧
    be (ctrBlock ctr0 cw i) / 2 ^ cw = be ctr0 / 2 ^ cw ∧
    (ctrBlock ctr0 cw i = ctrBlock ctr0 cw j → i = j)

/-- 43_ctr.md R212, chunking: the form of `ChachaXorChunksAgree` for CTR_XOR. -/
def Obligations.CtrXorChunksAgree : Prop :=
  ∀ (s t : State) (a b : U32) (n1 n2 : Nat),
    n1 + n2 < 2 ^ 32 →
    b.toNat ≤ a.toNat ∨ a.toNat + (n1 + n2) ≤ b.toNat →
    exec .ctrXor
      { s with args := { s.args with src := a, dst := b, len := BitVec.ofNat 32 (n1 + n2) } } = .next t →
    t.errc = .none →
    ∃ u v : State,
      exec .ctrXor { s with args := { s.args with src := a, dst := b, len := BitVec.ofNat 32 n1 } } = .next u ∧
      exec .ctrXor { u with args := { u.args with
        src := a + BitVec.ofNat 32 n1, dst := b + BitVec.ofNat 32 n1, len := BitVec.ofNat 32 n2 } } = .next v ∧
      v.errc = .none ∧ v.ctx = t.ctx ∧ ∀ x : Nat, v.dmem.read x = t.dmem.read x

/-! ## AES-CBC (44_cbc.md) -/

/-- 44_cbc.md R230: CBC_INIT. -/
def Obligations.CbcInitRule : Prop :=
  IllegalOutside 0x40 0xFFFFFFFF ∧
  decode 0x00000040 = .ok .cbcInit ∧
  ∀ s : State,
    (s.ksv = false → Raises .cbcInit s .nokey) ∧
    (s.ksv = true → s.nlen.val ≠ 16 → Raises .cbcInit s .arg) ∧
    (s.ksv = true → s.nlen.val = 16 →
      ∃ c : Reg 16, c.toList = slice s.nonce.toList 0 16 ∧
        Succeeds .cbcInit s 0 { s with mode := .cbc, phase := .aad, ctx := { s.ctx with chain := c } })

/-- 44_cbc.md R232: CBC_ENC. `m` is the chunk, padded if L = 1 and P = 1; each output block is the encryption of its
plaintext block XOR the output block before it, CHAIN before the first. -/
def Obligations.CbcEncRule : Prop :=
  IllegalOutside 0x41 0xFFFFFCFF ∧
  decode 0x00000041 = .ok (.cbcEnc false false) ∧ decode 0x00000141 = .ok (.cbcEnc true false) ∧
  decode 0x00000241 = .ok (.cbcEnc false true) ∧ decode 0x00000341 = .ok (.cbcEnc true true) ∧
  ∀ (s : State) (l p : Bool) (n outn : Nat), n = s.args.len.toNat →
    outn = (if l && p then n + 16 - n % 16 else n) →
    (¬ (s.mode = .cbc ∧ s.phase ≠ .done) → Raises (.cbcEnc l p) s .seq) ∧
    (s.mode = .cbc → s.phase ≠ .done → (l && p) = false → n % 16 ≠ 0 → Raises (.cbcEnc l p) s .arg) ∧
    (s.mode = .cbc → s.phase ≠ .done → ((l && p) = false → n % 16 = 0) →
      ¬ (s.inBounds s.args.src n ∧ s.inBounds s.args.dst outn) → Raises (.cbcEnc l p) s .bounds) ∧
    (s.mode = .cbc → s.phase ≠ .done → ((l && p) = false → n % 16 = 0) → s.inBounds s.args.src n →
      s.inBounds s.args.dst outn → s.Unwritten s.args.src n → FaultsUnwritten (.cbcEnc l p) s) ∧
    (∀ d m : Bytes, s.mode = .cbc → s.phase ≠ .done → ((l && p) = false → n % 16 = 0) →
      s.inBounds s.args.src n → s.inBounds s.args.dst outn → s.Holds s.args.src n d →
      m = (if l && p then d ++ List.replicate (16 - n % 16) (BitVec.ofNat 8 (16 - n % 16)) else d) →
      ∃ (o : Bytes) (c : Reg 16),
        o.length = outn ∧
        (∀ i < outn / 16, slice o (16 * i) (16 * i + 16) =
          aesEncrypt s.rk.toList s.nr (xorBytes (slice m (16 * i) (16 * i + 16))
            (if i = 0 then s.ctx.chain.toList else slice o (16 * (i - 1)) (16 * i)))) ∧
        c.toList = (if outn = 0 then s.ctx.chain.toList else slice o (outn - 16) outn) ∧
        Succeeds (.cbcEnc l p) s outn { s with
          dmem := s.dmem.write s.args.dst.toNat o, phase := (if l then .done else s.phase),
          ctx := { s.ctx with chain := c } })

/-- 44_cbc.md R233 and R231: CBC_DEC. Each decrypted block is XORed with the ciphertext block before it, CHAIN before
the first; with L = 1 and P = 1 the padding is checked and removed, and a bad padding raises PAD with PHASE <- DONE. -/
def Obligations.CbcDecRule : Prop :=
  IllegalOutside 0x42 0xFFFFFCFF ∧
  decode 0x00000042 = .ok (.cbcDec false false) ∧ decode 0x00000142 = .ok (.cbcDec true false) ∧
  decode 0x00000242 = .ok (.cbcDec false true) ∧ decode 0x00000342 = .ok (.cbcDec true true) ∧
  ∀ (s : State) (l p : Bool) (n : Nat), n = s.args.len.toNat →
    (¬ (s.mode = .cbc ∧ s.phase ≠ .done) → Raises (.cbcDec l p) s .seq) ∧
    (s.mode = .cbc → s.phase ≠ .done → n % 16 ≠ 0 ∨ ((l && p) = true ∧ n < 16) → Raises (.cbcDec l p) s .arg) ∧
    (s.mode = .cbc → s.phase ≠ .done → n % 16 = 0 → ((l && p) = true → 16 ≤ n) →
      ¬ (s.inBounds s.args.src n ∧ s.inBounds s.args.dst n) → Raises (.cbcDec l p) s .bounds) ∧
    (s.mode = .cbc → s.phase ≠ .done → n % 16 = 0 → ((l && p) = true → 16 ≤ n) → s.inBounds s.args.src n →
      s.inBounds s.args.dst n → s.Unwritten s.args.src n → FaultsUnwritten (.cbcDec l p) s) ∧
    (∀ q : Bytes, s.mode = .cbc → s.phase ≠ .done → n % 16 = 0 → ((l && p) = true → 16 ≤ n) →
      s.inBounds s.args.src n → s.inBounds s.args.dst n → s.Holds s.args.src n q →
      ∃ (o : Bytes) (c : Reg 16) (pv : Nat),
        o.length = n ∧
        (∀ i < n / 16, slice o (16 * i) (16 * i + 16) =
          xorBytes (aesDecrypt s.rk.toList s.nr (slice q (16 * i) (16 * i + 16)))
            (if i = 0 then s.ctx.chain.toList else slice q (16 * (i - 1)) (16 * i))) ∧
        c.toList = (if n = 0 then s.ctx.chain.toList else slice q (n - 16) n) ∧
        pv = (byteAt o (n - 1)).toNat ∧
        ((l && p) = false →
          Succeeds (.cbcDec l p) s n { s with
            dmem := s.dmem.write s.args.dst.toNat o, phase := (if l then .done else s.phase),
            ctx := { s.ctx with chain := c } }) ∧
        ((l && p) = true → (1 ≤ pv ∧ pv ≤ 16 ∧ ∀ j < pv, (byteAt o (n - 1 - j)).toNat = pv) →
          Succeeds (.cbcDec l p) s (n - pv) { s with
            dmem := s.dmem.write s.args.dst.toNat (slice o 0 (n - pv)), phase := .done,
            ctx := { s.ctx with chain := c } }) ∧
        ((l && p) = true → ¬ (1 ≤ pv ∧ pv ≤ 16 ∧ ∀ j < pv, (byteAt o (n - 1 - j)).toNat = pv) →
          exec (.cbcDec l p) s =
            .next { s with phase := .done, errc := .pad, outlen := 0, busy := false }))

/-- 44_cbc.md R231: a padded message is a positive multiple of 16 bytes, its padding is valid, and removing it gives
the message back. -/
def Obligations.Pkcs7RoundTrip : Prop :=
  ∀ m : Bytes,
    (pkcs7Pad m).length % 16 = 0 ∧ m.length < (pkcs7Pad m).length ∧ (pkcs7Pad m).length ≤ m.length + 16 ∧
    padValid (pkcs7Pad m) ∧ pkcs7Unpad (pkcs7Pad m) = m

/-! ## GF(2^128) and AES-GCM (45_gcm.md) -/

/-- 45_gcm.md R252: GF128_MUL. -/
def Obligations.Gf128MulRule : Prop :=
  IllegalOutside 0x50 0xFFFFFFFF ∧
  decode 0x00000050 = .ok .gf128Mul ∧
  ∀ s : State,
    (¬ (s.inBounds s.args.src 16 ∧ s.inBounds s.args.aux0 16 ∧ s.inBounds s.args.dst 16) →
      Raises .gf128Mul s .bounds) ∧
    (s.inBounds s.args.src 16 → s.inBounds s.args.aux0 16 → s.inBounds s.args.dst 16 →
      s.Unwritten s.args.src 16 ∨ s.Unwritten s.args.aux0 16 → FaultsUnwritten .gf128Mul s) ∧
    (∀ x y : Bytes, s.inBounds s.args.src 16 → s.inBounds s.args.aux0 16 → s.inBounds s.args.dst 16 →
      s.Holds s.args.src 16 x → s.Holds s.args.aux0 16 y →
      Succeeds .gf128Mul s 16 { s with dmem := s.dmem.write s.args.dst.toNat (gfMul x y) })

/-- 45_gcm.md R254 and R253: GCM_INIT. -/
def Obligations.GcmInitRule : Prop :=
  IllegalOutside 0x51 0xFFFFFFFF ∧
  decode 0x00000051 = .ok .gcmInit ∧
  ∀ (s : State) (iv : Bytes), iv = slice s.nonce.toList 0 s.nlen.val →
    (s.ksv = false → Raises .gcmInit s .nokey) ∧
    (s.ksv = true → ¬ (4 ≤ s.nlen.val ∧ s.nlen.val ≤ 32) → Raises .gcmInit s .arg) ∧
    (s.ksv = true → 4 ≤ s.nlen.val → s.nlen.val ≤ 32 →
      ∃ h j0 y : Reg 16,
        h.toList = aesEncrypt s.rk.toList s.nr (zeros 16) ∧
        j0.toList = (if s.nlen.val = 12 then iv ++ [0x00, 0x00, 0x00, 0x01]
          else ghash h.toList (zeros 16) (pad16 iv ++ zeros 8 ++ beBytes 8 (8 * s.nlen.val))) ∧
        y.toList = zeros 16 ∧
        Succeeds .gcmInit s 0 { s with
          mode := .gcm, phase := .aad, ctx := { s.ctx with h := h, j0 := j0, y := y, lena := 0, lenc := 0 } })

/-- 45_gcm.md R255: GCM_AAD. -/
def Obligations.GcmAadRule : Prop :=
  IllegalOutside 0x52 0xFFFFFEFF ∧
  decode 0x00000052 = .ok (.gcmAad false) ∧ decode 0x00000152 = .ok (.gcmAad true) ∧
  ∀ (s : State) (l : Bool) (n : Nat), n = s.args.len.toNat →
    (¬ (s.mode = .gcm ∧ s.phase = .aad) → Raises (.gcmAad l) s .seq) ∧
    (s.mode = .gcm → s.phase = .aad → l = false → n % 16 ≠ 0 → Raises (.gcmAad l) s .arg) ∧
    (s.mode = .gcm → s.phase = .aad → (l = false → n % 16 = 0) → ¬ s.inBounds s.args.src n →
      Raises (.gcmAad l) s .bounds) ∧
    (s.mode = .gcm → s.phase = .aad → (l = false → n % 16 = 0) → s.inBounds s.args.src n →
      2 ^ 61 - 1 < s.ctx.lena + n → Raises (.gcmAad l) s .limit) ∧
    (s.mode = .gcm → s.phase = .aad → (l = false → n % 16 = 0) → s.inBounds s.args.src n →
      s.ctx.lena + n ≤ 2 ^ 61 - 1 → s.Unwritten s.args.src n → FaultsUnwritten (.gcmAad l) s) ∧
    (∀ a : Bytes, s.mode = .gcm → s.phase = .aad → (l = false → n % 16 = 0) → s.inBounds s.args.src n →
      s.ctx.lena + n ≤ 2 ^ 61 - 1 → s.Holds s.args.src n a →
      ∃ y : Reg 16, y.toList = ghash s.ctx.h.toList s.ctx.y.toList (pad16 a) ∧
        Succeeds (.gcmAad l) s 0 { s with
          phase := (if l then .text else .aad), ctx := { s.ctx with y := y, lena := s.ctx.lena + n } })

/-- 45_gcm.md R256 and R258: GCM_ENC and GCM_DEC. The chunk d is XORed with the keystream; GCM_ENC absorbs the
output, GCM_DEC the input. -/
def Obligations.GcmTextRules : Prop :=
  IllegalOutside 0x53 0xFFFFFEFF ∧ IllegalOutside 0x54 0xFFFFFEFF ∧
  decode 0x00000053 = .ok (.gcmEnc false) ∧ decode 0x00000153 = .ok (.gcmEnc true) ∧
  decode 0x00000054 = .ok (.gcmDec false) ∧ decode 0x00000154 = .ok (.gcmDec true) ∧
  ∀ (s : State) (l enc : Bool) (i : Instr) (n : Nat), n = s.args.len.toNat →
    i = (if enc then .gcmEnc l else .gcmDec l) →
    (¬ (s.mode = .gcm ∧ (s.phase = .aad ∨ s.phase = .text)) → Raises i s .seq) ∧
    (s.mode = .gcm → s.phase = .aad ∨ s.phase = .text → l = false → n % 16 ≠ 0 → Raises i s .arg) ∧
    (s.mode = .gcm → s.phase = .aad ∨ s.phase = .text → (l = false → n % 16 = 0) →
      ¬ (s.inBounds s.args.src n ∧ s.inBounds s.args.dst n) → Raises i s .bounds) ∧
    (s.mode = .gcm → s.phase = .aad ∨ s.phase = .text → (l = false → n % 16 = 0) → s.inBounds s.args.src n →
      s.inBounds s.args.dst n → 2 ^ 36 - 32 < s.ctx.lenc + n → Raises i s .limit) ∧
    (s.mode = .gcm → s.phase = .aad ∨ s.phase = .text → (l = false → n % 16 = 0) → s.inBounds s.args.src n →
      s.inBounds s.args.dst n → s.ctx.lenc + n ≤ 2 ^ 36 - 32 → s.Unwritten s.args.src n → FaultsUnwritten i s) ∧
    (∀ d o : Bytes, s.mode = .gcm → s.phase = .aad ∨ s.phase = .text → (l = false → n % 16 = 0) →
      s.inBounds s.args.src n → s.inBounds s.args.dst n → s.ctx.lenc + n ≤ 2 ^ 36 - 32 → s.Holds s.args.src n d →
      o = xorBytes d (keystreamSlice (gcmKs s.rk.toList s.nr s.ctx.j0.toList) s.ctx.lenc n) →
      ∃ y : Reg 16, y.toList = ghash s.ctx.h.toList s.ctx.y.toList (pad16 (if enc then o else d)) ∧
        Succeeds i s n { s with
          dmem := s.dmem.write s.args.dst.toNat o, phase := (if l then .fin else .text),
          ctx := { s.ctx with y := y, lenc := s.ctx.lenc + n } })

/-- 45_gcm.md R259, R253 and R257: GCM_TAG. -/
def Obligations.GcmTagRule : Prop :=
  IllegalOutside 0x55 0xFFF0FFFF ∧
  (∀ tl : Nat, tl < 16 → decode (0x00000055 ||| BitVec.ofNat 32 tl <<< 16) = .ok (.gcmTag tl)) ∧
  ∀ (s : State) (tl t : Nat), t = tl + 1 →
    (¬ (s.mode = .gcm ∧ s.phase ≠ .done) → Raises (.gcmTag tl) s .seq) ∧
    (s.mode = .gcm → s.phase ≠ .done → t ∉ [4, 8, 12, 13, 14, 15, 16] → Raises (.gcmTag tl) s .arg) ∧
    (s.mode = .gcm → s.phase ≠ .done → t ∈ [4, 8, 12, 13, 14, 15, 16] → ¬ s.inBounds s.args.dst t →
      Raises (.gcmTag tl) s .bounds) ∧
    (s.mode = .gcm → s.phase ≠ .done → t ∈ [4, 8, 12, 13, 14, 15, 16] → s.inBounds s.args.dst t →
      Succeeds (.gcmTag tl) s t { s with
        phase := .done,
        dmem := s.dmem.write s.args.dst.toNat
          ((xorBytes (aesEncrypt s.rk.toList s.nr s.ctx.j0.toList)
            (ghash s.ctx.h.toList s.ctx.y.toList
              (beBytes 8 (8 * s.ctx.lena) ++ beBytes 8 (8 * s.ctx.lenc)))).take t) })

/-- 45_gcm.md R260: GCM_VERIFY. The stream is DONE whether or not the tag matches. -/
def Obligations.GcmVerifyRule : Prop :=
  IllegalOutside 0x56 0xFFF0FFFF ∧
  (∀ tl : Nat, tl < 16 → decode (0x00000056 ||| BitVec.ofNat 32 tl <<< 16) = .ok (.gcmVerify tl)) ∧
  ∀ (s : State) (tl t : Nat), t = tl + 1 →
    (¬ (s.mode = .gcm ∧ s.phase ≠ .done) → Raises (.gcmVerify tl) s .seq) ∧
    (s.mode = .gcm → s.phase ≠ .done → t ∉ [4, 8, 12, 13, 14, 15, 16] → Raises (.gcmVerify tl) s .arg) ∧
    (s.mode = .gcm → s.phase ≠ .done → t ∈ [4, 8, 12, 13, 14, 15, 16] → ¬ s.inBounds s.args.tag t →
      Raises (.gcmVerify tl) s .bounds) ∧
    (s.mode = .gcm → s.phase ≠ .done → t ∈ [4, 8, 12, 13, 14, 15, 16] → s.inBounds s.args.tag t →
      s.Unwritten s.args.tag t → FaultsUnwritten (.gcmVerify tl) s) ∧
    (∀ want full : Bytes, s.mode = .gcm → s.phase ≠ .done → t ∈ [4, 8, 12, 13, 14, 15, 16] →
      s.inBounds s.args.tag t → s.Holds s.args.tag t want →
      full = gcmFullTag s.rk.toList s.nr s.ctx.h.toList s.ctx.j0.toList s.ctx.y.toList s.ctx.lena s.ctx.lenc →
      (full.take t = want → Succeeds (.gcmVerify tl) s 0 { s with phase := .done }) ∧
      (full.take t ≠ want →
        exec (.gcmVerify tl) s =
          .next { s with phase := .done, errc := .auth, outlen := 0, busy := false }))

/-- 45_gcm.md R261: GCM_OPEN. -/
def Obligations.GcmOpenRule : Prop :=
  IllegalOutside 0x57 0xFFF0FFFF ∧
  (∀ tl : Nat, tl < 16 → decode (0x00000057 ||| BitVec.ofNat 32 tl <<< 16) = .ok (.gcmOpen tl)) ∧
  ∀ (s : State) (tl t na n : Nat) (bounds : Prop), t = tl + 1 → na = s.args.aadlen.toNat → n = s.args.len.toNat →
    (bounds ↔ s.inBounds s.args.aad na ∧ s.inBounds s.args.src n ∧ s.inBounds s.args.tag t ∧
      s.inBounds s.args.dst n) →
    (s.ksv = false → Raises (.gcmOpen tl) s .nokey) ∧
    (s.ksv = true → ¬ (4 ≤ s.nlen.val ∧ s.nlen.val ≤ 32) → Raises (.gcmOpen tl) s .arg) ∧
    (s.ksv = true → 4 ≤ s.nlen.val → s.nlen.val ≤ 32 → t ∉ [4, 8, 12, 13, 14, 15, 16] →
      Raises (.gcmOpen tl) s .arg) ∧
    (s.ksv = true → 4 ≤ s.nlen.val → s.nlen.val ≤ 32 → t ∈ [4, 8, 12, 13, 14, 15, 16] → ¬ bounds →
      Raises (.gcmOpen tl) s .bounds) ∧
    (s.ksv = true → 4 ≤ s.nlen.val → s.nlen.val ≤ 32 → t ∈ [4, 8, 12, 13, 14, 15, 16] → bounds →
      s.Unwritten s.args.aad na ∨ s.Unwritten s.args.src n ∨ s.Unwritten s.args.tag t →
      FaultsUnwritten (.gcmOpen tl) s) ∧
    (∀ a c want h j0 full : Bytes, s.ksv = true → 4 ≤ s.nlen.val → s.nlen.val ≤ 32 →
      t ∈ [4, 8, 12, 13, 14, 15, 16] → bounds → s.Holds s.args.aad na a → s.Holds s.args.src n c →
      s.Holds s.args.tag t want → h = aesEncrypt s.rk.toList s.nr (zeros 16) →
      j0 = gcmJ0 h (slice s.nonce.toList 0 s.nlen.val) →
      full = gcmFullTag s.rk.toList s.nr h j0 (ghash h (zeros 16) (pad16 a ++ pad16 c)) na n →
      (full.take t = want →
        Succeeds (.gcmOpen tl) s n { s with
          dmem := s.dmem.write s.args.dst.toNat
            (xorBytes c (keystreamSlice (gcmKs s.rk.toList s.nr j0) 0 n)) }) ∧
      (full.take t ≠ want → Raises (.gcmOpen tl) s .auth))

/-- 45_gcm.md R263: the tag of a GCM stream (GCM_INIT, one final AAD chunk, one final text chunk of GCM_ENC or
GCM_DEC) is the tag that GCM_OPEN computes for the same AAD and the stream's ciphertext. -/
def Obligations.GcmOpenTagMatchesStream : Prop :=
  ∀ (s s1 s2 s3 : State) (i : Instr) (a d o : Bytes) (ra ca rt ct dt : U32),
    i = .gcmEnc true ∨ i = .gcmDec true →
    exec .gcmInit s = .next s1 → s1.errc = .none →
    exec (.gcmAad true) { s1 with args := { s1.args with src := ra, len := ca } } = .next s2 → s2.errc = .none →
    exec i { s2 with args := { s2.args with src := rt, len := ct, dst := dt } } = .next s3 → s3.errc = .none →
    s1.Holds ra ca.toNat a → s2.Holds rt ct.toNat d → s3.Holds dt ct.toNat o →
    s3.gcmTagNow = s.gcmOpenTag a (if i = .gcmEnc true then o else d)

/-! ## Poly1305 and ChaCha20-Poly1305 (46_poly1305_aead.md) -/

/-- 46_poly1305_aead.md R292 and R290: POLY1305, for the key k and the message m. -/
def Obligations.Poly1305Rule : Prop :=
  IllegalOutside 0x60 0xFFFFFFFF ∧
  decode 0x00000060 = .ok .poly1305 ∧
  ∀ (s : State) (n : Nat), n = s.args.len.toNat →
    (¬ (s.inBounds s.args.aux0 32 ∧ s.inBounds s.args.src n ∧ s.inBounds s.args.dst 16) →
      Raises .poly1305 s .bounds) ∧
    (s.inBounds s.args.aux0 32 → s.inBounds s.args.src n → s.inBounds s.args.dst 16 →
      s.Unwritten s.args.aux0 32 ∨ s.Unwritten s.args.src n → FaultsUnwritten .poly1305 s) ∧
    (∀ k m : Bytes, s.inBounds s.args.aux0 32 → s.inBounds s.args.src n → s.inBounds s.args.dst 16 →
      s.Holds s.args.aux0 32 k → s.Holds s.args.src n m →
      Succeeds .poly1305 s 16 { s with
        dmem := s.dmem.write s.args.dst.toNat
          (leBytes 16 ((polyAbsorb 0 (polyR k) m + le (slice k 16 32)) % 2 ^ 128)) })

/-- 46_poly1305_aead.md R293: CP_INIT. -/
def Obligations.CpInitRule : Prop :=
  IllegalOutside 0x61 0xFFFFFBFF ∧
  decode 0x00000061 = .ok (.cpInit false) ∧ decode 0x00000461 = .ok (.cpInit true) ∧
  ∀ (s : State) (x : Bool),
    (s.klen ≠ .k32 → Raises (.cpInit x) s .nokey) ∧
    (s.klen = .k32 → s.nlen.val ≠ (if x then 24 else 12) → Raises (.cpInit x) s .arg) ∧
    (s.klen = .k32 → s.nlen.val = (if x then 24 else 12) →
      ∃ (sk : Reg 32) (sn : Reg 12) (otk : Bytes) (r q : BitVec 128),
        sk.toList = (if x then hChacha20 s.key.toList (slice s.nonce.toList 0 16) else s.key.toList) ∧
        sn.toList = (if x then zeros 4 ++ slice s.nonce.toList 16 24 else slice s.nonce.toList 0 12) ∧
        otk = slice (chachaBlock sk.toList 0 sn.toList) 0 32 ∧
        r.toNat = le (slice otk 0 16) &&& 0x0ffffffc0ffffffc0ffffffc0fffffff ∧
        q.toNat = le (slice otk 16 32) ∧
        Succeeds (.cpInit x) s 0 { s with
          mode := .cp, phase := .aad,
          ctx := { s.ctx with
            skey := sk, snonce := sn, kidx := 64, pr := r, ps := q, acc := 0, lena := 0, lenc := 0 } })

/-- 46_poly1305_aead.md R294: CP_AAD. -/
def Obligations.CpAadRule : Prop :=
  IllegalOutside 0x62 0xFFFFFEFF ∧
  decode 0x00000062 = .ok (.cpAad false) ∧ decode 0x00000162 = .ok (.cpAad true) ∧
  ∀ (s : State) (l : Bool) (n : Nat), n = s.args.len.toNat →
    (¬ (s.mode = .cp ∧ s.phase = .aad) → Raises (.cpAad l) s .seq) ∧
    (s.mode = .cp → s.phase = .aad → l = false → n % 16 ≠ 0 → Raises (.cpAad l) s .arg) ∧
    (s.mode = .cp → s.phase = .aad → (l = false → n % 16 = 0) → ¬ s.inBounds s.args.src n →
      Raises (.cpAad l) s .bounds) ∧
    (s.mode = .cp → s.phase = .aad → (l = false → n % 16 = 0) → s.inBounds s.args.src n →
      2 ^ 64 - 1 < s.ctx.lena + n → Raises (.cpAad l) s .limit) ∧
    (s.mode = .cp → s.phase = .aad → (l = false → n % 16 = 0) → s.inBounds s.args.src n →
      s.ctx.lena + n ≤ 2 ^ 64 - 1 → s.Unwritten s.args.src n → FaultsUnwritten (.cpAad l) s) ∧
    (∀ a : Bytes, s.mode = .cp → s.phase = .aad → (l = false → n % 16 = 0) → s.inBounds s.args.src n →
      s.ctx.lena + n ≤ 2 ^ 64 - 1 → s.Holds s.args.src n a →
      Succeeds (.cpAad l) s 0 { s with
        phase := (if l then .text else .aad),
        ctx := { s.ctx with acc := polyAbsorb s.ctx.acc s.ctx.pr (pad16 a), lena := s.ctx.lena + n } })

/-- 46_poly1305_aead.md R295 and R296: CP_ENC and CP_DEC. The chunk d is XORed with the keystream; CP_ENC absorbs
the output, CP_DEC the input. -/
def Obligations.CpTextRules : Prop :=
  IllegalOutside 0x63 0xFFFFFEFF ∧ IllegalOutside 0x64 0xFFFFFEFF ∧
  decode 0x00000063 = .ok (.cpEnc false) ∧ decode 0x00000163 = .ok (.cpEnc true) ∧
  decode 0x00000064 = .ok (.cpDec false) ∧ decode 0x00000164 = .ok (.cpDec true) ∧
  ∀ (s : State) (l enc : Bool) (i : Instr) (n : Nat), n = s.args.len.toNat →
    i = (if enc then .cpEnc l else .cpDec l) →
    (¬ (s.mode = .cp ∧ (s.phase = .aad ∨ s.phase = .text)) → Raises i s .seq) ∧
    (s.mode = .cp → s.phase = .aad ∨ s.phase = .text → l = false → n % 16 ≠ 0 → Raises i s .arg) ∧
    (s.mode = .cp → s.phase = .aad ∨ s.phase = .text → (l = false → n % 16 = 0) →
      ¬ (s.inBounds s.args.src n ∧ s.inBounds s.args.dst n) → Raises i s .bounds) ∧
    (s.mode = .cp → s.phase = .aad ∨ s.phase = .text → (l = false → n % 16 = 0) → s.inBounds s.args.src n →
      s.inBounds s.args.dst n → 2 ^ 38 < s.ctx.kidx + n → Raises i s .limit) ∧
    (s.mode = .cp → s.phase = .aad ∨ s.phase = .text → (l = false → n % 16 = 0) → s.inBounds s.args.src n →
      s.inBounds s.args.dst n → s.ctx.kidx + n ≤ 2 ^ 38 → s.Unwritten s.args.src n → FaultsUnwritten i s) ∧
    (∀ d o : Bytes, s.mode = .cp → s.phase = .aad ∨ s.phase = .text → (l = false → n % 16 = 0) →
      s.inBounds s.args.src n → s.inBounds s.args.dst n → s.ctx.kidx + n ≤ 2 ^ 38 → s.Holds s.args.src n d →
      o = xorBytes d (keystreamSlice (chachaKs s.ctx.skey.toList s.ctx.snonce.toList) s.ctx.kidx n) →
      Succeeds i s n { s with
        dmem := s.dmem.write s.args.dst.toNat o, phase := (if l then .fin else .text),
        ctx := { s.ctx with
          acc := polyAbsorb s.ctx.acc s.ctx.pr (pad16 (if enc then o else d)), kidx := s.ctx.kidx + n,
          lenc := s.ctx.lenc + n } })

/-- 46_poly1305_aead.md R297: CP_TAG. -/
def Obligations.CpTagRule : Prop :=
  IllegalOutside 0x65 0xFFFFFFFF ∧
  decode 0x00000065 = .ok .cpTag ∧
  ∀ s : State,
    (¬ (s.mode = .cp ∧ s.phase ≠ .done) → Raises .cpTag s .seq) ∧
    (s.mode = .cp → s.phase ≠ .done → ¬ s.inBounds s.args.dst 16 → Raises .cpTag s .bounds) ∧
    (s.mode = .cp → s.phase ≠ .done → s.inBounds s.args.dst 16 →
      Succeeds .cpTag s 16 { s with
        phase := .done,
        dmem := s.dmem.write s.args.dst.toNat
          (leBytes 16 ((polyAbsorb s.ctx.acc s.ctx.pr (leBytes 8 s.ctx.lena ++ leBytes 8 s.ctx.lenc) +
            s.ctx.ps.toNat) % 2 ^ 128)) })

/-- 46_poly1305_aead.md R298: CP_VERIFY. The stream is DONE whether or not the tag matches. -/
def Obligations.CpVerifyRule : Prop :=
  IllegalOutside 0x66 0xFFFFFFFF ∧
  decode 0x00000066 = .ok .cpVerify ∧
  ∀ s : State,
    (¬ (s.mode = .cp ∧ s.phase ≠ .done) → Raises .cpVerify s .seq) ∧
    (s.mode = .cp → s.phase ≠ .done → ¬ s.inBounds s.args.tag 16 → Raises .cpVerify s .bounds) ∧
    (s.mode = .cp → s.phase ≠ .done → s.inBounds s.args.tag 16 → s.Unwritten s.args.tag 16 →
      FaultsUnwritten .cpVerify s) ∧
    (∀ want tag : Bytes, s.mode = .cp → s.phase ≠ .done → s.inBounds s.args.tag 16 →
      s.Holds s.args.tag 16 want →
      tag = leBytes 16 ((polyAbsorb s.ctx.acc s.ctx.pr (leBytes 8 s.ctx.lena ++ leBytes 8 s.ctx.lenc) +
        s.ctx.ps.toNat) % 2 ^ 128) →
      (tag = want → Succeeds .cpVerify s 0 { s with phase := .done }) ∧
      (tag ≠ want →
        exec .cpVerify s = .next { s with phase := .done, errc := .auth, outlen := 0, busy := false }))

/-- 46_poly1305_aead.md R299 and R291: CP_OPEN. -/
def Obligations.CpOpenRule : Prop :=
  IllegalOutside 0x67 0xFFFFFBFF ∧
  decode 0x00000067 = .ok (.cpOpen false) ∧ decode 0x00000467 = .ok (.cpOpen true) ∧
  ∀ (s : State) (x : Bool) (na n : Nat) (bounds : Prop), na = s.args.aadlen.toNat → n = s.args.len.toNat →
    (bounds ↔ s.inBounds s.args.aad na ∧ s.inBounds s.args.src n ∧ s.inBounds s.args.tag 16 ∧
      s.inBounds s.args.dst n) →
    (s.klen ≠ .k32 → Raises (.cpOpen x) s .nokey) ∧
    (s.klen = .k32 → s.nlen.val ≠ (if x then 24 else 12) → Raises (.cpOpen x) s .arg) ∧
    (s.klen = .k32 → s.nlen.val = (if x then 24 else 12) → ¬ bounds → Raises (.cpOpen x) s .bounds) ∧
    (s.klen = .k32 → s.nlen.val = (if x then 24 else 12) → bounds →
      s.Unwritten s.args.aad na ∨ s.Unwritten s.args.src n ∨ s.Unwritten s.args.tag 16 →
      FaultsUnwritten (.cpOpen x) s) ∧
    (∀ a c want sk sn tag : Bytes, s.klen = .k32 → s.nlen.val = (if x then 24 else 12) → bounds →
      s.Holds s.args.aad na a → s.Holds s.args.src n c → s.Holds s.args.tag 16 want →
      sk = (if x then hChacha20 s.key.toList (slice s.nonce.toList 0 16) else s.key.toList) →
      sn = (if x then zeros 4 ++ slice s.nonce.toList 16 24 else slice s.nonce.toList 0 12) →
      tag = poly1305Mac (slice (chachaBlock sk 0 sn) 0 32) (pad16 a ++ pad16 c ++ leBytes 8 na ++ leBytes 8 n) →
      (tag = want →
        Succeeds (.cpOpen x) s n { s with
          dmem := s.dmem.write s.args.dst.toNat (xorBytes c (keystreamSlice (chachaKs sk sn) 64 n)) }) ∧
      (tag ≠ want → Raises (.cpOpen x) s .auth))

/-- 60_exceptions.md R335: ConstEq of two strings of equal length is true iff they agree at every byte. -/
def Obligations.TagCompareIsBytewiseEquality : Prop :=
  ∀ a b : Bytes, a.length = b.length → (constEq a b = true ↔ ∀ i < a.length, byteAt a i = byteAt b i)

/-! ## Decoding and the step (30_encoding.md, 10_state.md R54) -/

/-- 10_state.md R54: with BUSY = 1 and the engine's turn, a step is exec of the decoded command; with BUSY = 0 and
nothing from outside, the SCE keeps its state (60_exceptions.md R349). The engine's turn is the model's choice (log
entries 4 and 5): no event is pending, or the pending event reads STATUS and no further BUSY = 1 answer was drawn. The
last clause is about the model's own `withFetchWord`, which stands for a CMD write (DESIGN CHOICE, log entry 8): the word
it places is the one that runs. -/
def Obligations.StepExecutesLatchedCommand : Prop :=
  (∀ (s : State) (i : Instr), s.busy = true → decode s.latch = .ok i → i.wellFormed = true →
    (s.inputs = [] ∨ ∃ (e : Input) (rest : List Input),
      s.inputs = e :: rest ∧ e.readsStatus = true ∧ s.pollsLeft = 0) →
    step s = exec i s) ∧
  (∀ s : State, s.busy = false → s.inputs = [] → step s = .next s) ∧
  (∀ (s : State) (w : Nat) (i : Instr), decodeTableWord 32 w = some i →
    step (s.withFetchWord 32 w) = exec i (s.withFetchWord 32 w))

/-- 30_encoding.md R109's example words, decoded and assembled. -/
def Obligations.SpecWordsDecode : Prop :=
  decode 0x00002002 = .ok (.keyld 2) ∧ decode 0x00000341 = .ok (.cbcEnc true true) ∧
  decode 0x20000030 = .ok (.ctrInit 32) ∧ decode 0x000F0055 = .ok (.gcmTag 15) ∧
  decode 0x00000461 = .ok (.cpInit true) ∧
  assemble "KEYLD" [.kl 256] = some 0x00002002 ∧ assemble "CBC_ENC" [.last, .pad] = some 0x00000341 ∧
  assemble "CTR_INIT" [.cw 32] = some 0x20000030 ∧ assemble "GCM_TAG" [.tl 16] = some 0x000F0055 ∧
  assemble "CP_INIT" [.x] = some 0x00000461 ∧ assemble "CHACHA_XOR" [.last] = none

/-- 30_encoding.md R101, R103: for every well-formed command, decoding its word gives it back. -/
def Obligations.DecodeOfEncode : Prop := ∀ i : Instr, i.wellFormed = true → decode (encode i) = .ok i

/-- 30_encoding.md R107: every word the decoder accepts is the word of the command it gives, which is well-formed. -/
def Obligations.EncodeOfDecode : Prop :=
  ∀ (w : U32) (i : Instr), decode w = .ok i → i.wellFormed = true ∧ encode i = w

/-- 30_encoding.md R103 and R107: a word decodes to a command of a row iff (w and mask) = match for that row, and
every word selects exactly one row or is rejected. -/
def Obligations.DecodeMatchesOpcodeMap : Prop :=
  (∀ (w : U32) (i : Instr), decode w = .ok i → w &&& tableMask i = tableMatch i) ∧
  (∀ (w : U32) (j : Instr), w &&& tableMask j = tableMatch j →
    ∃ i : Instr, decode w = .ok i ∧ tableMatch i = tableMatch j ∧ tableMask i = tableMask j) ∧
  (∀ (w : U32) (i j : Instr), w &&& tableMask i = tableMatch i → w &&& tableMask j = tableMatch j →
    tableMatch i = tableMatch j)

/-- 30_encoding.md R104, R105: a word that selects no row of the opcode map raises ILLEGAL and has no other effect:
`unassignedOp` where its OP is none of the 32 values, `reservedBits` where only the bits outside the fields are
wrong. -/
def Obligations.IllegalWordsRaiseIllegal : Prop :=
  ∀ w : U32,
    ((w.toNat % 256) ∉ [0x00, 0x01, 0x02, 0x03, 0x10, 0x11, 0x12, 0x20, 0x21, 0x22, 0x23, 0x30, 0x31, 0x40, 0x41,
      0x42, 0x50, 0x51, 0x52, 0x53, 0x54, 0x55, 0x56, 0x57, 0x60, 0x61, 0x62, 0x63, 0x64, 0x65, 0x66, 0x67] →
      decode w = .error .unassignedOp) ∧
    (∀ j : Instr, w.toNat % 256 = (tableMatch j).toNat → w &&& tableMask j ≠ tableMatch j →
      decode w = .error .reservedBits) ∧
    (∀ s : State, s.busy = true → s.inputs = [] → s.latch = w →
      (∀ j : Instr, w &&& tableMask j ≠ tableMatch j) →
      step s = .next { s with errc := .illegal, outlen := 0, busy := false })

/-! ## What every command leaves unchanged -/

/-- 60_exceptions.md R333: an error changes nothing but ERRC, OUTLEN and BUSY, but for PHASE <- DONE on AUTH from
GCM_VERIFY or CP_VERIFY and on PAD from CBC_DEC with L = 1 and P = 1. -/
def Obligations.ErrorsChangeNothingElse : Prop :=
  (∀ s : State, (∀ i : Instr, decode s.latch ≠ .ok i) →
    engineStep s = .next { s with errc := .illegal, outlen := 0, busy := false }) ∧
  ∀ (i : Instr) (s t : State), exec i s = .next t → t.errc ≠ .none →
    t = { s with errc := t.errc, outlen := 0, busy := false } ∧
        (t.errc = .auth → (∃ tl, i = .gcmOpen tl) ∨ ∃ x, i = .cpOpen x) ∧ t.errc ≠ .pad ∨
    t = { s with phase := .done, errc := .auth, outlen := 0, busy := false } ∧
        ((∃ tl, i = .gcmVerify tl) ∨ i = .cpVerify) ∨
    t = { s with phase := .done, errc := .pad, outlen := 0, busy := false } ∧ i = .cbcDec true true

/-- 10_state.md R31, R40 to R43, 60_exceptions.md R334: what each command leaves unchanged among the registers. No
command writes an argument register, LATCH, DMEM_SIZE or the record of the outside; BUSY is 0 at completion; KEY, RK,
NONCE, KSV, MODE, PHASE and the context fields change only under the commands named in `writesKey` and its fellows.
That LATCH keeps the executed word is the model's reading of R54 (DEDUCED, log entry 13): R54 writes LATCH at the CMD
write only and does not say that it holds its value. -/
def Obligations.CommandsKeepOtherRegisters : Prop :=
  ∀ (i : Instr) (s t : State), exec i s = .next t →
    t.busy = false ∧ t.cfg = s.cfg ∧ t.latch = s.latch ∧ t.args = s.args ∧ t.inputs = s.inputs ∧
    t.answers = s.answers ∧ t.lastAccess = s.lastAccess ∧ t.pollsLeft = s.pollsLeft ∧ t.draws = s.draws ∧
    (writesKey i = false → t.key = s.key ∧ t.klen = s.klen) ∧
    (writesSchedule i = false → t.rk = s.rk ∧ t.nr = s.nr) ∧
    (writesKsv i = false → t.ksv = s.ksv) ∧
    (writesNonce i = false → t.nonce = s.nonce ∧ t.nlen = s.nlen) ∧
    (writesMode i = false → t.mode = s.mode) ∧
    (writesPhase i = false → t.phase = s.phase) ∧
    ctxFrame i s.ctx t.ctx

/-- 20_memory.md R77, R79 and 10_state.md R39: a command that stores writes OUTLEN bytes at A.DST and nothing else; a
command that does not store, or that ends with an error, leaves all of DMEM. -/
def Obligations.CommandsStoreOnlyTheirRange : Prop :=
  ∀ (i : Instr) (s t : State), exec i s = .next t →
    (storesToDmem i = false → t.dmem = s.dmem ∧ t.outlen = 0) ∧
    (t.errc ≠ .none → t.dmem = s.dmem ∧ t.outlen = 0) ∧
    (∀ a : Nat, a < s.args.dst.toNat ∨ s.args.dst.toNat + t.outlen.toNat ≤ a → t.dmem.read a = s.dmem.read a) ∧
    (storesToDmem i = true → t.errc = .none →
      ∃ v : Bytes, v.length = t.outlen.toNat ∧ t.dmem = s.dmem.write s.args.dst.toNat v ∧
        s.inBounds s.args.dst v.length)

/-! ## Reset (10_state.md R53, 70_reset_and_hazards.md) -/

/-- 10_state.md R53: the state after reset. DMEM_SIZE is not part of the rule. -/
def Obligations.ResetStateIsAsSpecified : Prop :=
  State.reset.busy = false ∧ State.reset.latch = 0 ∧
  State.reset.args =
    { src := 0, dst := 0, len := 0, aad := 0, aadlen := 0, tag := 0, aux0 := 0, aux1 := 0 } ∧
  statusWord State.reset = 0x00000000 ∧ State.reset.outlen = 0 ∧ readReg State.reset .id = 0x53434501 ∧
  State.reset.key.toList = zeros 32 ∧ State.reset.klen = .none ∧
  State.reset.rk.toList = zeros 240 ∧ State.reset.nr = 0 ∧ State.reset.ksv = false ∧
  State.reset.nonce.toList = zeros 32 ∧ State.reset.nlen.val = 0 ∧
  State.reset.mode = .none ∧ State.reset.phase = .aad ∧
  State.reset.ctx.skey.toList = zeros 32 ∧ State.reset.ctx.snonce.toList = zeros 12 ∧ State.reset.ctx.kidx = 0 ∧
  State.reset.ctx.ctr0.toList = zeros 16 ∧ State.reset.ctx.cw = 0 ∧ State.reset.ctx.chain.toList = zeros 16 ∧
  State.reset.ctx.h.toList = zeros 16 ∧ State.reset.ctx.j0.toList = zeros 16 ∧
  State.reset.ctx.y.toList = zeros 16 ∧ State.reset.ctx.lena = 0 ∧ State.reset.ctx.lenc = 0 ∧
  State.reset.ctx.pr = 0 ∧ State.reset.ctx.ps = 0 ∧ State.reset.ctx.acc = 0 ∧
  ∀ a : Nat, State.reset.dmem.read a = none

/-- 70_reset_and_hazards.md R360, R361: a reset sets every register of the SCE to its reset value and makes every
DMEM byte unwritten, whether or not a command is in flight. What it keeps (log entry 9) and the record of the last
access (log entry 18) are the model's. -/
def Obligations.PlatformResetRestoresReset : Prop :=
  ∀ (s : State) (rest : List Input), s.inputs = .reset :: rest →
    ∃ t : State, step s = .next t ∧
      t = { State.reset with cfg := s.cfg, inputs := rest, answers := s.answers, draws := s.draws }

/-! ## The host's window (10_state.md section 2, 20_memory.md, 70_reset_and_hazards.md) -/

/-- 10_state.md R34 and R37: the fields of STATUS with BUSY = 0, reserved bits 0, with the codes of ERRC
(60_exceptions.md R330), KLC (R34), MODE (R43) and PHASE (R50). -/
def Obligations.StatusFieldsMirrorRegisters : Prop :=
  ∀ s : State, s.busy = false →
    ∃ w : U32, hostRead s 32 0x004 = .ok w ∧
      w.getLsbD 0 = false ∧ w.getLsbD 1 = decide (s.errc ≠ .none) ∧ w.extractLsb' 2 2 = 0 ∧
      w.extractLsb' 4 4 =
        (match s.errc with
          | .none => 0 | .illegal => 1 | .nokey => 2 | .seq => 3 | .arg => 4 | .bounds => 5 | .limit => 6 | .auth => 7
          | .pad => 8) ∧
      w.extractLsb' 8 2 = (match s.klen with | .none => 0 | .k16 => 1 | .k24 => 2 | .k32 => 3) ∧
      w.getLsbD 10 = s.ksv ∧ w.getLsbD 11 = false ∧
      w.extractLsb' 12 3 =
        (match s.mode with | .none => 0 | .chacha => 1 | .ctr => 2 | .cbc => 3 | .gcm => 4 | .cp => 5) ∧
      w.getLsbD 15 = false ∧
      w.extractLsb' 16 2 = (match s.phase with | .aad => 0 | .text => 1 | .fin => 2 | .done => 3) ∧
      w.extractLsb' 18 6 = 0 ∧ (w.extractLsb' 24 6).toNat = s.nlen.val ∧ w.extractLsb' 30 2 = 0

/-- 70_reset_and_hazards.md R370 and 10_state.md R35: while BUSY = 1 and before the engine's transition, a 32-bit
STATUS read returns bit 0 = 1 and changes no register, and every other host access is the fault busy_hazard; a run does
not end with such a read (R374). Model's choices: that a pending access comes before the engine's transition, and that
bits 31:1 are free (log entry 4), the count of such reads (log entry 5), busy_hazard rather than bus_access for an
access that is also of illegal width or alignment (log entry 17), and the record of the last access (log entry 18). -/
def Obligations.BusyAccesses : Prop :=
  ∀ (s : State) (rest : List Input), s.busy = true →
    (s.inputs = .read 32 0x004 :: rest → s.pollsLeft ≠ 0 →
      ∃ v : U32, v.getLsbD 0 = true ∧
        step s = .next { s with
          inputs := rest, answers := s.answers ++ [v], lastAccess := .busy1, draws := s.draws + 1,
          pollsLeft := s.pollsLeft - 1 }) ∧
    (∀ t : State, s.inputs = .read 32 0x004 :: rest → s.pollsLeft ≠ 0 → step s = .next t → ¬ t.runEnded) ∧
    (∀ (bits : Nat) (off : BitVec 17), s.inputs = .read bits off :: rest → ¬ (bits = 32 ∧ off = 0x004) →
      step s = .fault .busyHazard) ∧
    (∀ (bits : Nat) (off : BitVec 17) (v : U32), s.inputs = .write bits off v :: rest →
      step s = .fault .busyHazard)

/-- 10_state.md R38 and R54: a CMD write with BUSY = 0 sets LATCH and BUSY; a CMD read returns 0. The draw of the
number of BUSY = 1 answers (log entry 5) and the record of the last access (log entry 18) are the model's. -/
def Obligations.CmdWriteIssuesCommand : Prop :=
  ∀ (s : State) (w : U32) (rest : List Input), s.busy = false →
    (s.inputs = .write 32 0x008 w :: rest →
      ∃ t : State, step s = .next t ∧ t.latch = w ∧ t.busy = true ∧
        t = { s with
          latch := w, busy := true, inputs := rest, lastAccess := .busy0, pollsLeft := t.pollsLeft,
          draws := t.draws }) ∧
    hostRead s 32 0x008 = .ok 0

/-- 20_memory.md R72, R73 and 10_state.md section 2: the accesses below 0x1_0000. An access that is not 32 bits wide
and word-aligned faults; a reserved offset reads 0 and ignores writes; ID, STATUS and OUTLEN ignore writes; a write at
an argument register's offset writes that register and nothing else, and a read there returns it. -/
def Obligations.RegisterWindowAccesses : Prop :=
  ∀ (s : State) (v : U32) (off : Nat), s.busy = false → off < 0x10000 →
    (∀ bits : Nat, ¬ (bits = 32 ∧ off % 4 = 0) →
      hostRead s bits off = .error .busAccess ∧ hostWrite s bits off v = .error .busAccess) ∧
    (off % 4 = 0 → 0x030 ≤ off → hostRead s 32 off = .ok 0 ∧ hostWrite s 32 off v = .ok s) ∧
    (off = 0x000 ∨ off = 0x004 ∨ off = 0x00C → hostWrite s 32 off v = .ok s) ∧
    (off = 0x000 → hostRead s 32 off = .ok 0x53434501) ∧
    (off = 0x00C → hostRead s 32 off = .ok s.outlen) ∧
    (off = 0x010 →
      hostWrite s 32 off v = .ok { s with args := { s.args with src := v } } ∧ hostRead s 32 off = .ok s.args.src) ∧
    (off = 0x014 →
      hostWrite s 32 off v = .ok { s with args := { s.args with dst := v } } ∧ hostRead s 32 off = .ok s.args.dst) ∧
    (off = 0x018 →
      hostWrite s 32 off v = .ok { s with args := { s.args with len := v } } ∧ hostRead s 32 off = .ok s.args.len) ∧
    (off = 0x01C →
      hostWrite s 32 off v = .ok { s with args := { s.args with aad := v } } ∧ hostRead s 32 off = .ok s.args.aad) ∧
    (off = 0x020 →
      hostWrite s 32 off v = .ok { s with args := { s.args with aadlen := v } } ∧
      hostRead s 32 off = .ok s.args.aadlen) ∧
    (off = 0x024 →
      hostWrite s 32 off v = .ok { s with args := { s.args with tag := v } } ∧ hostRead s 32 off = .ok s.args.tag) ∧
    (off = 0x028 →
      hostWrite s 32 off v = .ok { s with args := { s.args with aux0 := v } } ∧ hostRead s 32 off = .ok s.args.aux0) ∧
    (off = 0x02C →
      hostWrite s 32 off v = .ok { s with args := { s.args with aux1 := v } } ∧ hostRead s 32 off = .ok s.args.aux1) ∧
    (off % 4 = 0 → 0x010 ≤ off → off < 0x030 →
      ∃ t : State, hostWrite s 32 off v = .ok t ∧ t = { s with args := t.args } ∧ hostRead t 32 off = .ok v ∧
        ∀ off' : Nat, off' % 4 = 0 → 0x010 ≤ off' → off' < 0x030 → off' ≠ off →
          hostRead t 32 off' = hostRead s 32 off')

/-- 20_memory.md R73, R75, R76: the accesses from 0x1_0000 on. An access of another width than 8, 16 or 32 bits, or
not aligned to its width, faults with bus_access (over unwritten bytes too: log entry 17); past DMEM_SIZE an access
reads 0 and ignores writes; a read of an unwritten byte faults; a read of written bytes, whoever wrote them, returns
their little-endian value at the access width; a write stores the value's bytes, the lowest first, and a read of the
same width returns the value. Where a narrow value stands in 32 bits is the model's choice (DESIGN CHOICE, log entry 3):
an 8- or 16-bit read's answer is widened with zeros, and an 8- or 16-bit write takes the low bits of its value. -/
def Obligations.DmemWindowAccesses : Prop :=
  ∀ (s : State) (v : U32) (a bits n : Nat), n = bits / 8 →
    (¬ ((bits = 8 ∨ bits = 16 ∨ bits = 32) ∧ a % n = 0) →
      hostRead s bits (0x10000 + a) = .error .busAccess ∧
      hostWrite s bits (0x10000 + a) v = .error .busAccess) ∧
    ((bits = 8 ∨ bits = 16 ∨ bits = 32) → a % n = 0 → s.dmemSize ≤ a →
      hostRead s bits (0x10000 + a) = .ok 0 ∧ hostWrite s bits (0x10000 + a) v = .ok s) ∧
    ((bits = 8 ∨ bits = 16 ∨ bits = 32) → a % n = 0 → a < s.dmemSize →
      (∃ k < n, s.dmem.read (a + k) = none) → hostRead s bits (0x10000 + a) = .error .unwrittenDmem) ∧
    (∀ b : Nat → Byte, (bits = 8 ∨ bits = 16 ∨ bits = 32) → a % n = 0 → a < s.dmemSize →
      (∀ k < n, s.dmem.read (a + k) = some (b k)) →
      ∃ w : U32, hostRead s bits (0x10000 + a) = .ok w ∧ (∀ k < n, w.extractLsb' (8 * k) 8 = b k) ∧
        w.toNat < 2 ^ bits) ∧
    ((bits = 8 ∨ bits = 16 ∨ bits = 32) → a % n = 0 → a < s.dmemSize →
      ∃ t : State, hostWrite s bits (0x10000 + a) v = .ok t ∧ t = { s with dmem := t.dmem } ∧
        (∀ k < n, t.dmem.read (a + k) = some (v.extractLsb' (8 * k) 8)) ∧
        (∀ x : Nat, x < a ∨ a + n ≤ x → t.dmem.read x = s.dmem.read x) ∧
        hostRead t bits (0x10000 + a) = .ok (BitVec.ofNat 32 (v.toNat % 2 ^ bits)))

/-- 20_memory.md R80 and 10_state.md R35, R40: with BUSY = 0, a step is the oldest host access: a read answers what
`hostRead` gives, a write leaves what `hostWrite` gives, a polling loop ends with the STATUS it reads, and an access that
faults is the step's fault. A read changes nothing but the host's own record, and no host access changes an engine
register or a STATUS field but BUSY, which a CMD write sets. A run ends with such an access if none is pending after it
(70_reset_and_hazards.md R374). The list of events and the answers (log entry 3) and the record of the last access (log
entry 18) are the model's. -/
def Obligations.HostAccessesLeaveEngine : Prop :=
  ∀ (s : State) (rest : List Input), s.busy = false →
    (∀ (bits : Nat) (off : BitVec 17), s.inputs = .read bits off :: rest →
      (∀ v : U32, hostRead s bits off.toNat = .ok v →
        step s = .next { s with inputs := rest, answers := s.answers ++ [v], lastAccess := .busy0 }) ∧
      (∀ f : Fault, hostRead s bits off.toNat = .error f → step s = .fault f)) ∧
    (∀ (bits : Nat) (off : BitVec 17) (v : U32), s.inputs = .write bits off v :: rest →
      (∀ u : State, hostWrite s bits off.toNat v = .ok u →
        step s = .next { u with inputs := rest, lastAccess := .busy0 }) ∧
      (∀ f : Fault, hostWrite s bits off.toNat v = .error f → step s = .fault f)) ∧
    (s.inputs = .wait :: rest →
      ∃ v : U32, v = statusWord s ∧ hostRead s 32 0x004 = .ok v ∧
        step s = .next { s with inputs := rest, answers := s.answers ++ [v], lastAccess := .busy0 }) ∧
    (∀ (e : Input) (t : State), s.inputs = e :: rest → e ≠ .reset → step s = .next t →
      SameEngine t s ∧
      ((∃ bits off, e = .read bits off) ∨ e = .wait →
        ∃ v : U32, t = { s with inputs := rest, answers := s.answers ++ [v], lastAccess := .busy0 }) ∧
      (t.runEnded ↔ rest = []))

/-- 10_state.md R52: no host read depends on KEY, RK, NONCE, the mode context or LATCH. -/
def Obligations.HostReadsRevealNoSecret : Prop :=
  ∀ (s u : State) (bits off : Nat), s.busy = false → u.busy = false → SameVisible s u →
    hostRead s bits off = hostRead u bits off ∧ s.observe = u.observe

/-- 70_reset_and_hazards.md R372: a polling host sees BUSY = 1 a finite number of times, and then the engine's
transition is next; each answer has bit 0 set, and polling changes nothing else. When the number is drawn (log entry
5), that the reads come first (log entry 4) and the record of the last access (log entry 18) are the model's. -/
def Obligations.PollingEnds : Prop :=
  ∀ (s : State) (rest : List Input), s.busy = true → s.inputs = .wait :: rest →
    ∃ (u : State) (l : List U32), (Sys2Proof.core.run s.pollsLeft s : Result) = .next u ∧ turn u = .engine ∧
      l.length = s.pollsLeft ∧ (∀ v ∈ l, v.getLsbD 0 = true) ∧
      u = { s with
        answers := s.answers ++ l, lastAccess := (if s.pollsLeft = 0 then s.lastAccess else .busy1), draws := u.draws,
        pollsLeft := 0 }

/-! ## Invariants that every step keeps -/

/-- 20_memory.md R70, R76: every step keeps DMEM in canonical form and below DMEM_SIZE. -/
def Obligations.StepKeepsDmemInv : Prop := ∀ s t : State, DmemInv s → step s = .next t → DmemInv t

/-- 10_state.md R40 to R42, R45: every step keeps the key-state invariant. -/
def Obligations.StepKeepsKeyInv : Prop := ∀ s t : State, KeyInv s → step s = .next t → KeyInv t

/-- 10_state.md R44, R46, R47, R49 to R51: every step keeps the stream-register bounds. -/
def Obligations.StepKeepsStreamInv : Prop := ∀ s t : State, StreamInv s → step s = .next t → StreamInv t

/-- 45_gcm.md R254, 46_poly1305_aead.md R293, 10_state.md R49, R51: every step keeps H as the encryption of the zero
block under the schedule of a GCM stream, and PR and PS as the one-time key of the SKEY and SNONCE of a CP stream. An
AES_KEYEXP inside a GCM stream expands the same KEY again. -/
def Obligations.StepKeepsDerivedKeyInv : Prop :=
  ∀ s t : State, DerivedKeyInv s → step s = .next t → DerivedKeyInv t

/-- The reset state meets the invariants of `StepKeepsDmemInv`, `StepKeepsKeyInv`, `StepKeepsStreamInv` and
`StepKeepsDerivedKeyInv`, and so does the state after a platform reset. -/
def Obligations.ResetMeetsInvariants : Prop :=
  DmemInv State.reset ∧ DerivedKeyInv State.reset ∧ StreamInv State.reset ∧
  ∀ s : State, DmemInv s.platformReset ∧ DerivedKeyInv s.platformReset ∧ StreamInv s.platformReset
end

