-- ==== Sys2Proof/Laws/Bytes.lean ====
section
/-! SUPPORT. The lengths of the byte strings that the operations produce, the registers they are put into, and the
tag comparison. -/

namespace Sys2Proof.Machine

open Sys2Proof

@[simp] theorem zeros_length (n : Nat) : (zeros n).length = n := by simp [zeros]

@[simp] theorem slice_length {α : Type} (b : List α) (i j : Nat) :
    (slice b i j).length = min (j - i) (b.length - i) := by simp [slice]

@[simp] theorem xorBytes_length (b c : Bytes) : (xorBytes b c).length = min b.length c.length := by
  simp [xorBytes]

@[simp] theorem leBytes_length (n v : Nat) : (leBytes n v).length = n := by
  induction n generalizing v with
  | zero => rfl
  | succ n ih => simp [leBytes, ih]

@[simp] theorem beBytes_length (n v : Nat) : (beBytes n v).length = n := by simp [beBytes]

@[simp] theorem keystreamSlice_length (ks : Nat → Byte) (k n : Nat) : (keystreamSlice ks k n).length = n := by
  simp [keystreamSlice]

/-- A keystream slice splits at any point (20_memory.md R86). -/
theorem keystreamSlice_append (ks : Nat → Byte) (k m n : Nat) :
    keystreamSlice ks k (m + n) = keystreamSlice ks k m ++ keystreamSlice ks (k + m) n := by
  simp [keystreamSlice, List.range_add, Nat.add_assoc, Function.comp_def]

@[simp] theorem blocks16_length (k : Nat) (b : Bytes) : (blocks16 k b).length = k := by simp [blocks16]

theorem pad16_length (d : Bytes) : (pad16 d).length % 16 = 0 := by simp [pad16]; omega

/-- A register that is given exactly its width holds the bytes it is given. -/
theorem toReg_toList {n : Nat} {b : Bytes} (h : b.length = n) : (toReg n b).toList = b := by
  subst h; simp [toReg, Vector.toList]

theorem toReg_toList_eq (n : Nat) (b : Bytes) : (toReg n b).toList = (b ++ zeros n).take n := by
  simp [toReg, Vector.toList, zeros]

@[simp] theorem toReg_of_toList {n : Nat} (r : Reg n) : toReg n r.toList = r := by
  apply Vector.toList_inj.mp
  exact toReg_toList (by simp)

/-- LE(LEn_bytes(v)) = v mod 256^n (00_scope.md R8). -/
theorem le_leBytes (n v : Nat) : le (leBytes n v) = v % 256 ^ n := by
  induction n generalizing v with
  | zero => simp [leBytes, le, Nat.mod_one]
  | succ n ih => simp [leBytes, le, ih, BitVec.toNat_ofNat, Nat.pow_succ', Nat.mod_mul]

/-- BE(BEn_bytes(v)) = v mod 256^n (00_scope.md R8). -/
theorem be_beBytes (n v : Nat) : be (beBytes n v) = v % 256 ^ n := by simp [be, beBytes, le_leBytes]

theorem le_lt (b : Bytes) : le b < 256 ^ b.length := by
  induction b with
  | nil => simp [le]
  | cons x b ih =>
    have hx : x.toNat < 256 := x.isLt
    simp only [le, List.length_cons, Nat.pow_succ]
    omega

theorem be_lt (b : Bytes) : be b < 256 ^ b.length := by simpa [be] using le_lt b.reverse

/-! ## AES -/

@[simp] theorem aesState_length (f : Nat → Byte) : (aesState f).length = 16 := by simp [aesState]

@[simp] theorem addRoundKey_length (rk : Bytes) (j : Nat) (s : Bytes) : (addRoundKey rk j s).length = 16 := by
  simp [addRoundKey]

@[simp] theorem aesEncrypt_length (rk : Bytes) (nr : Nat) (b : Bytes) : (aesEncrypt rk nr b).length = 16 := by
  simp [aesEncrypt]

@[simp] theorem aesDecrypt_length (rk : Bytes) (nr : Nat) (b : Bytes) : (aesDecrypt rk nr b).length = 16 := by
  simp [aesDecrypt]

/-- Byte k of a state that is given by position. -/
theorem byteAt_aesState (f : Nat → Byte) {k : Nat} (h : k < 16) : byteAt (aesState f) k = f k := by
  simp [byteAt, aesState, List.getD_eq_getElem?_getD, h]

/-! ## ChaCha20 -/

theorem serializeWords_length (x : List U32) : (serializeWords x).length = 4 * x.length := by
  induction x with
  | nil => rfl
  | cons w x ih => simp [serializeWords, List.flatMap_cons] at ih ⊢; omega

@[simp] theorem quarterRoundAt_length (x : List U32) (i j k l : Nat) :
    (quarterRoundAt x i j k l).length = x.length := by simp [quarterRoundAt]

@[simp] theorem doubleRound_length (x : List U32) : (doubleRound x).length = x.length := by simp [doubleRound]

@[simp] theorem chachaRounds_length (x : List U32) : (chachaRounds x).length = x.length := by
  have h (n : Nat) : ∀ y : List U32, (doubleRound^[n] y).length = y.length := by
    induction n with
    | zero => intro y; rfl
    | succ n ih => intro y; simp [Function.iterate_succ_apply, ih]
  exact h 10 x

@[simp] theorem chachaInitial_length (k : Bytes) (n : U32) (v : Bytes) : (chachaInitial k n v).length = 16 := by
  simp [chachaInitial, sigma, chachaWords]

@[simp] theorem chachaBlock_length (k : Bytes) (n : U32) (v : Bytes) : (chachaBlock k n v).length = 64 := by
  simp [chachaBlock, serializeWords_length]

@[simp] theorem hChacha20_length (k u : Bytes) : (hChacha20 k u).length = 32 := by
  simp [hChacha20, serializeWords_length, sigma, chachaWords]

theorem streamNonce_length (x : Bool) (nonce : Bytes) (h : nonce.length = 32) :
    (streamNonce x nonce).length = 12 := by
  cases x <;> simp [streamNonce, h]

theorem streamKey_length (x : Bool) (key nonce : Bytes) (h : key.length = 32) :
    (streamKey x key nonce).length = 32 := by
  cases x <;> simp [streamKey, h]

/-! ## GHASH and Poly1305 -/

@[simp] theorem gfMul_length (x y : Bytes) : (gfMul x y).length = 16 := by simp [gfMul]

/-- GHASH of a 16-byte value is a 16-byte value (45_gcm.md R251). -/
theorem ghash_length (h y d : Bytes) (hy : y.length = 16) : (ghash h y d).length = 16 := by
  have key (bs : List Bytes) : ∀ y : Bytes, y.length = 16 →
      (bs.foldl (fun y b => gfMul (xorBytes y b) h) y).length = 16 := by
    induction bs with
    | nil => intro y hy; simpa using hy
    | cons b bs ih => intro y _; exact ih _ (by simp)
  exact key _ _ hy

theorem ghash_append_blocks (h y : Bytes) (d e : Bytes) (hd : d.length % 16 = 0) :
    ghash h y (d ++ e) = ghash h (ghash h y d) e := by
  have hb : blocks16 ((d ++ e).length / 16) (d ++ e) =
      blocks16 (d.length / 16) d ++ blocks16 (e.length / 16) e := by
    obtain ⟨k, hk⟩ : ∃ k, d.length = 16 * k := ⟨d.length / 16, by omega⟩
    have h1 : (d ++ e).length / 16 = k + e.length / 16 := by simp [hk]; omega
    have h2 : d.length / 16 = k := by omega
    rw [h1, h2]
    simp only [blocks16, List.range_add, List.map_append, List.map_map]
    congr 1
    · apply List.map_congr_left
      intro i hi
      have hi' : i < k := by simpa using hi
      have hle : 16 * i ≤ d.length := by omega
      simp only [slice, List.drop_append_of_le_length hle]
      rw [List.take_append_of_le_length (by simp; omega)]
    · apply List.map_congr_left
      intro i _
      simp only [Function.comp, slice]
      rw [List.drop_append]
      simp [hk, Nat.mul_add, List.drop_eq_nil_of_le]
  simp only [ghash, hb, List.foldl_append]

@[simp] theorem gcmFullTag_length (rk : Bytes) (nr : Nat) (h j0 y : Bytes) (lena lenc : Nat)
    (hy : y.length = 16) : (gcmFullTag rk nr h j0 y lena lenc).length = 16 := by
  simp [gcmFullTag, ghash_length _ _ _ hy]

theorem gcmJ0_length (h iv : Bytes) : (gcmJ0 h iv).length = 16 := by
  unfold gcmJ0
  split
  · simp [*]
  · exact ghash_length _ _ _ (by simp)

theorem ctrBlock_length (ctr0 : Bytes) (cw i : Nat) : (ctrBlock ctr0 cw i).length = 16 := by simp [ctrBlock]

@[simp] theorem polyFinish_length (acc : Nat) (s : BitVec 128) : (polyFinish acc s).length = 16 := by
  simp [polyFinish]

@[simp] theorem cpLengths_length (a c : Nat) : (cpLengths a c).length = 16 := by simp [cpLengths]

/-- The accumulator stays below p once it is below p (10_state.md R44). -/
theorem polyAbsorb_lt (acc : Nat) (r : BitVec 128) (m : Bytes) (h : acc < polyP) : polyAbsorb acc r m < polyP := by
  have key (qs : List Bytes) : ∀ acc, acc < polyP → qs.foldl (polyStep r) acc < polyP := by
    induction qs with
    | nil => intro acc h; simpa using h
    | cons q qs ih => intro acc _; exact ih _ (Nat.mod_lt _ (by decide))
  exact key _ _ h

end Sys2Proof.Machine
end

