-- ==== Sys2Proof/Laws/Memory.lean ====
section
/-! SUPPORT. DMEM: what a read sees after a write, and that a write keeps the canonical form (20_memory.md R76, R77). -/

namespace Sys2Proof.Machine

open Sys2Proof

/-! ## Reading -/

theorem Memory.read_append (m n : Memory) (a : Nat) : (m ++ n).read a = (m.read a).or (n.read a) := by
  induction m with
  | nil => simp [Memory.read]
  | cons c m ih => by_cases h : c.1 = a <;> simp [Memory.read, h, ih]

theorem Memory.read_eq_none (m : Memory) (a : Nat) (h : ∀ c ∈ m, c.1 ≠ a) : m.read a = none := by
  induction m with
  | nil => rfl
  | cons c m ih =>
    have := h c (by simp)
    simp [Memory.read, this, ih fun d hd => h d (by simp [hd])]

/-- A filter on addresses that keeps a does not change what a reads as. -/
theorem Memory.read_filter (m : Memory) (p : Nat → Bool) (a : Nat) :
    Memory.read (m.filter fun c => p c.1) a = if p a then m.read a else none := by
  induction m with
  | nil => simp [Memory.read]
  | cons c m ih =>
    by_cases h : c.1 = a
    · subst h
      cases hp : p c.1 <;> simp [Memory.read, hp, ih]
    · cases hp : p c.1 <;> simp [Memory.read, hp, ih, h]

theorem mem_cellsFrom {a : Nat} {v : Bytes} {c : Host.Cell} (h : c ∈ cellsFrom a v) :
    a ≤ c.1 ∧ c.1 < a + v.length := by
  induction v generalizing a with
  | nil => simp [cellsFrom] at h
  | cons b v ih =>
    simp only [cellsFrom, List.mem_cons] at h
    rcases h with rfl | h
    · simp
    · have := ih h
      simp only [List.length_cons]
      omega

theorem read_cellsFrom (a : Nat) (v : Bytes) (x : Nat) :
    Memory.read (cellsFrom a v) x = if a ≤ x then v[x - a]? else none := by
  induction v generalizing a with
  | nil => simp [cellsFrom, Memory.read]
  | cons b v ih =>
    simp only [cellsFrom, Memory.read, ih]
    by_cases h1 : a = x
    · subst h1; simp
    · by_cases h2 : a + 1 ≤ x
      · have h3 : x - a = (x - (a + 1)) + 1 := by omega
        simp [h1, h2, h3, show a ≤ x by omega]
      · simp [h1, h2, show ¬ a ≤ x by omega]

/-- A read after a MemWrite: the written byte inside the range, the old byte outside it (20_memory.md R77). -/
theorem Memory.read_write (m : Memory) (a : Nat) (v : Bytes) (x : Nat) :
    (m.write a v).read x = if a ≤ x ∧ x < a + v.length then v[x - a]? else m.read x := by
  have h1 := Memory.read_filter m (fun y => decide (y < a)) x
  have h2 := Memory.read_filter m (fun y => decide (a + v.length ≤ y)) x
  simp only [decide_eq_true_eq] at h1 h2
  simp only [Memory.write, Memory.read_append, h1, h2, read_cellsFrom]
  by_cases h3 : x < a
  · simp [h3, show ¬ a ≤ x by omega, show ¬ a + v.length ≤ x by omega]
  · by_cases h4 : x < a + v.length
    · simp [h3, h4, show a ≤ x by omega, show ¬ a + v.length ≤ x by omega]
    · simp [h3, h4, show a ≤ x by omega, show a + v.length ≤ x by omega,
        List.getElem?_eq_none (show v.length ≤ x - a by omega)]

/-- Outside the written range every byte reads as before. -/
theorem Memory.read_write_of_lt (m : Memory) {a x : Nat} (v : Bytes) (h : x < a) :
    (m.write a v).read x = m.read x := by
  rw [Memory.read_write, if_neg (by omega)]

theorem Memory.read_write_of_ge (m : Memory) {a x : Nat} (v : Bytes) (h : a + v.length ≤ x) :
    (m.write a v).read x = m.read x := by
  rw [Memory.read_write, if_neg (by omega)]

/-- MemRead depends on the bytes of its range only. -/
theorem Memory.readBytes_congr {m m' : Memory} {a n : Nat}
    (h : ∀ x, a ≤ x → x < a + n → m.read x = m'.read x) : m.readBytes a n = m'.readBytes a n := by
  induction n generalizing a with
  | zero => rfl
  | succ n ih =>
    simp only [Memory.readBytes]
    rw [h a (by omega) (by omega), ih fun x hx hx' => h x (by omega) (by omega)]

/-- MemRead of n bytes answers n bytes. -/
theorem Memory.readBytes_length {m : Memory} {a n : Nat} {v : Bytes} (h : m.readBytes a n = some v) :
    v.length = n := by
  induction n generalizing a v with
  | zero => simp [Memory.readBytes] at h; simp [← h]
  | succ n ih =>
    simp only [Memory.readBytes] at h
    split at h
    · rename_i h2; simp only [Option.some.injEq] at h; simp [← h, ih h2]
    · simp at h

/-- MemRead answers v exactly where its range reads as v, byte by byte. -/
theorem Memory.readBytes_eq_some {m : Memory} {a : Nat} {v : Bytes} :
    m.readBytes a v.length = some v ↔ ∀ i (h : i < v.length), m.read (a + i) = some v[i] := by
  induction v generalizing a with
  | nil => simp [Memory.readBytes]
  | cons b v ih =>
    constructor
    · intro h
      simp only [Memory.readBytes, List.length_cons] at h
      split at h
      · rename_i b' bs' hb hbs
        simp only [Option.some.injEq, List.cons.injEq] at h
        obtain ⟨rfl, rfl⟩ := h
        intro i hi
        cases i with
        | zero => simpa using hb
        | succ i =>
          have := (ih.mp hbs) i (by simpa using hi)
          simpa [Nat.add_assoc, Nat.add_comm 1] using this
      · simp at h
    · intro h
      have h0 := h 0 (by simp)
      have hr : m.readBytes (a + 1) v.length = some v := ih.mpr fun i hi => by
        have := h (i + 1) (by simpa using hi)
        simpa [Nat.add_assoc, Nat.add_comm 1] using this
      simp at h0
      simp [Memory.readBytes, h0, hr]

/-- A MemRead of a range that was just written answers the written bytes (20_memory.md R77). -/
theorem Memory.readBytes_write (m : Memory) (a : Nat) (v : Bytes) :
    (m.write a v).readBytes a v.length = some v := by
  rw [Memory.readBytes_eq_some]
  intro i hi
  rw [Memory.read_write, if_pos (by omega)]
  simp [hi]

/-! ## The canonical form -/

/-- The canonical form as a relation between all pairs of cells. -/
theorem Memory.wf_iff (m : Memory) : m.wf = true ↔ m.Pairwise fun c d => c.1 < d.1 := by
  induction m with
  | nil => simp [Memory.wf]
  | cons c m ih =>
    cases m with
    | nil => simp [Memory.wf]
    | cons d m =>
      simp only [Memory.wf, Bool.and_eq_true, decide_eq_true_eq, ih]
      constructor
      · rintro ⟨h, hp⟩
        refine List.pairwise_cons.mpr ⟨fun e he => ?_, hp⟩
        rcases List.mem_cons.mp he with rfl | he
        · exact h
        · exact Nat.lt_trans h ((List.pairwise_cons.mp hp).1 e he)
      · intro hp
        have := List.pairwise_cons.mp hp
        exact ⟨this.1 d (by simp), this.2⟩

theorem cellsFrom_pairwise (a : Nat) (v : Bytes) : (cellsFrom a v).Pairwise fun c d => c.1 < d.1 := by
  induction v generalizing a with
  | nil => simp [cellsFrom]
  | cons b v ih =>
    refine List.pairwise_cons.mpr ⟨fun c hc => ?_, ih _⟩
    have := mem_cellsFrom hc
    simp only
    omega

/-- MemWrite keeps the canonical form. -/
theorem Memory.write_wf {m : Memory} (a : Nat) (v : Bytes) (h : m.wf = true) : (m.write a v).wf = true := by
  rw [Memory.wf_iff] at h ⊢
  simp only [Memory.write, List.append_assoc]
  refine List.pairwise_append.mpr ⟨h.filter _, List.pairwise_append.mpr ⟨cellsFrom_pairwise a v, h.filter _, ?_⟩, ?_⟩
  · intro c hc d hd
    have h1 := mem_cellsFrom hc
    have h2 := (List.mem_filter.mp hd).2
    simp only [decide_eq_true_eq] at h2
    omega
  · intro c hc d hd
    have h1 := (List.mem_filter.mp hc).2
    simp only [decide_eq_true_eq] at h1
    rcases List.mem_append.mp hd with hd | hd
    · have := mem_cellsFrom hd
      omega
    · have h2 := (List.mem_filter.mp hd).2
      simp only [decide_eq_true_eq] at h2
      omega

/-- MemWrite of a range below DMEM_SIZE leaves every byte below it. -/
theorem Memory.write_below {m : Memory} {a size : Nat} {v : Bytes} (h : m.below size = true)
    (hv : v = [] ∨ a + v.length ≤ size) : (m.write a v).below size = true := by
  simp only [Memory.below, List.all_eq_true, decide_eq_true_eq] at h ⊢
  intro c hc
  simp only [Memory.write, List.append_assoc, List.mem_append, List.mem_filter] at hc
  rcases hc with ⟨hc, _⟩ | hc | ⟨hc, _⟩
  · exact h c hc
  · have := mem_cellsFrom hc
    rcases hv with rfl | hv
    · simp at this; omega
    · omega
  · exact h c hc

/-- Two canonical memories that read alike are equal. -/
theorem Memory.ext_of_wf {m n : Memory} (hm : m.wf = true) (hn : n.wf = true) (h : ∀ a, m.read a = n.read a) :
    m = n := by
  rw [Memory.wf_iff] at hm hn
  induction m generalizing n with
  | nil =>
    cases n with
    | nil => rfl
    | cons d n => have := h d.1; simp [Memory.read] at this
  | cons c m ih =>
    cases n with
    | nil => have := h c.1; simp [Memory.read] at this
    | cons d n =>
      have hcm := List.pairwise_cons.mp hm
      have hdn := List.pairwise_cons.mp hn
      have hnone {l : Memory} {x : Nat} (hl : ∀ e ∈ l, x < e.1) : l.read x = none :=
        Memory.read_eq_none _ _ fun e he => (Nat.ne_of_lt (hl e he)).symm
      have hfst : c.1 = d.1 := by
        rcases Nat.lt_trichotomy c.1 d.1 with hlt | heq | hgt
        · have := h c.1
          have hd' : Memory.read n c.1 = none := hnone fun e he => Nat.lt_trans hlt (hdn.1 e he)
          simp [Memory.read, hd', Nat.ne_of_gt hlt] at this
        · exact heq
        · have := h d.1
          have hc' : Memory.read m d.1 = none := hnone fun e he => Nat.lt_trans hgt (hcm.1 e he)
          simp [Memory.read, hc', Nat.ne_of_gt hgt] at this
      have hsnd : c.2 = d.2 := by
        have := h c.1
        simpa [Memory.read, hfst] using this
      have hcd : c = d := Prod.ext hfst hsnd
      subst hcd
      congr 1
      refine ih hcm.2 hdn.2 fun a => ?_
      by_cases ha : c.1 = a
      · subst ha; rw [hnone hcm.1, hnone hdn.1]
      · simpa [Memory.read, ha] using h a

end Sys2Proof.Machine
end

