-- ==== Sys2Proof/Laws/State.lean ====
section
/-! SUPPORT. What each named update of the state leaves in each field: one lemma per field per update. -/

namespace Sys2Proof.Machine

open Sys2Proof

/-! ## Completion (60_exceptions.md R334) -/

@[simp] theorem State.completed_cfg (s : State) (e : ErrCode) (n : Nat) : (s.completed e n).cfg = s.cfg := rfl
@[simp] theorem State.completed_busy (s : State) (e : ErrCode) (n : Nat) : (s.completed e n).busy = false := rfl
@[simp] theorem State.completed_latch (s : State) (e : ErrCode) (n : Nat) : (s.completed e n).latch = s.latch := rfl
@[simp] theorem State.completed_args (s : State) (e : ErrCode) (n : Nat) : (s.completed e n).args = s.args := rfl
@[simp] theorem State.completed_errc (s : State) (e : ErrCode) (n : Nat) : (s.completed e n).errc = e := rfl
@[simp] theorem State.completed_outlen (s : State) (e : ErrCode) (n : Nat) :
    (s.completed e n).outlen = BitVec.ofNat 32 n := rfl
@[simp] theorem State.completed_key (s : State) (e : ErrCode) (n : Nat) : (s.completed e n).key = s.key := rfl
@[simp] theorem State.completed_klen (s : State) (e : ErrCode) (n : Nat) : (s.completed e n).klen = s.klen := rfl
@[simp] theorem State.completed_rk (s : State) (e : ErrCode) (n : Nat) : (s.completed e n).rk = s.rk := rfl
@[simp] theorem State.completed_nr (s : State) (e : ErrCode) (n : Nat) : (s.completed e n).nr = s.nr := rfl
@[simp] theorem State.completed_ksv (s : State) (e : ErrCode) (n : Nat) : (s.completed e n).ksv = s.ksv := rfl
@[simp] theorem State.completed_nonce (s : State) (e : ErrCode) (n : Nat) : (s.completed e n).nonce = s.nonce := rfl
@[simp] theorem State.completed_nlen (s : State) (e : ErrCode) (n : Nat) : (s.completed e n).nlen = s.nlen := rfl
@[simp] theorem State.completed_mode (s : State) (e : ErrCode) (n : Nat) : (s.completed e n).mode = s.mode := rfl
@[simp] theorem State.completed_phase (s : State) (e : ErrCode) (n : Nat) : (s.completed e n).phase = s.phase := rfl
@[simp] theorem State.completed_ctx (s : State) (e : ErrCode) (n : Nat) : (s.completed e n).ctx = s.ctx := rfl
@[simp] theorem State.completed_dmem (s : State) (e : ErrCode) (n : Nat) : (s.completed e n).dmem = s.dmem := rfl
@[simp] theorem State.completed_inputs (s : State) (e : ErrCode) (n : Nat) : (s.completed e n).inputs = s.inputs := rfl
@[simp] theorem State.completed_answers (s : State) (e : ErrCode) (n : Nat) :
    (s.completed e n).answers = s.answers := rfl
@[simp] theorem State.completed_lastAccess (s : State) (e : ErrCode) (n : Nat) :
    (s.completed e n).lastAccess = s.lastAccess := rfl
@[simp] theorem State.completed_pollsLeft (s : State) (e : ErrCode) (n : Nat) :
    (s.completed e n).pollsLeft = s.pollsLeft := rfl
@[simp] theorem State.completed_draws (s : State) (e : ErrCode) (n : Nat) : (s.completed e n).draws = s.draws := rfl

/-! ## MemWrite (20_memory.md R77) -/

@[simp] theorem State.memWrite_cfg (s : State) (a : U32) (v : Bytes) : (s.memWrite a v).cfg = s.cfg := rfl
@[simp] theorem State.memWrite_busy (s : State) (a : U32) (v : Bytes) : (s.memWrite a v).busy = s.busy := rfl
@[simp] theorem State.memWrite_latch (s : State) (a : U32) (v : Bytes) : (s.memWrite a v).latch = s.latch := rfl
@[simp] theorem State.memWrite_args (s : State) (a : U32) (v : Bytes) : (s.memWrite a v).args = s.args := rfl
@[simp] theorem State.memWrite_errc (s : State) (a : U32) (v : Bytes) : (s.memWrite a v).errc = s.errc := rfl
@[simp] theorem State.memWrite_outlen (s : State) (a : U32) (v : Bytes) : (s.memWrite a v).outlen = s.outlen := rfl
@[simp] theorem State.memWrite_key (s : State) (a : U32) (v : Bytes) : (s.memWrite a v).key = s.key := rfl
@[simp] theorem State.memWrite_klen (s : State) (a : U32) (v : Bytes) : (s.memWrite a v).klen = s.klen := rfl
@[simp] theorem State.memWrite_rk (s : State) (a : U32) (v : Bytes) : (s.memWrite a v).rk = s.rk := rfl
@[simp] theorem State.memWrite_nr (s : State) (a : U32) (v : Bytes) : (s.memWrite a v).nr = s.nr := rfl
@[simp] theorem State.memWrite_ksv (s : State) (a : U32) (v : Bytes) : (s.memWrite a v).ksv = s.ksv := rfl
@[simp] theorem State.memWrite_nonce (s : State) (a : U32) (v : Bytes) : (s.memWrite a v).nonce = s.nonce := rfl
@[simp] theorem State.memWrite_nlen (s : State) (a : U32) (v : Bytes) : (s.memWrite a v).nlen = s.nlen := rfl
@[simp] theorem State.memWrite_mode (s : State) (a : U32) (v : Bytes) : (s.memWrite a v).mode = s.mode := rfl
@[simp] theorem State.memWrite_phase (s : State) (a : U32) (v : Bytes) : (s.memWrite a v).phase = s.phase := rfl
@[simp] theorem State.memWrite_ctx (s : State) (a : U32) (v : Bytes) : (s.memWrite a v).ctx = s.ctx := rfl
@[simp] theorem State.memWrite_dmem (s : State) (a : U32) (v : Bytes) :
    (s.memWrite a v).dmem = s.dmem.write a.toNat v := rfl
@[simp] theorem State.memWrite_inputs (s : State) (a : U32) (v : Bytes) : (s.memWrite a v).inputs = s.inputs := rfl
@[simp] theorem State.memWrite_answers (s : State) (a : U32) (v : Bytes) : (s.memWrite a v).answers = s.answers := rfl
@[simp] theorem State.memWrite_lastAccess (s : State) (a : U32) (v : Bytes) :
    (s.memWrite a v).lastAccess = s.lastAccess := rfl
@[simp] theorem State.memWrite_pollsLeft (s : State) (a : U32) (v : Bytes) :
    (s.memWrite a v).pollsLeft = s.pollsLeft := rfl
@[simp] theorem State.memWrite_draws (s : State) (a : U32) (v : Bytes) : (s.memWrite a v).draws = s.draws := rfl

/-! ## A CMD write (10_state.md R54) -/

@[simp] theorem State.issue_cfg (s : State) (w : U32) : (s.issue w).cfg = s.cfg := rfl
@[simp] theorem State.issue_busy (s : State) (w : U32) : (s.issue w).busy = true := rfl
@[simp] theorem State.issue_latch (s : State) (w : U32) : (s.issue w).latch = w := rfl
@[simp] theorem State.issue_args (s : State) (w : U32) : (s.issue w).args = s.args := rfl
@[simp] theorem State.issue_errc (s : State) (w : U32) : (s.issue w).errc = s.errc := rfl
@[simp] theorem State.issue_outlen (s : State) (w : U32) : (s.issue w).outlen = s.outlen := rfl
@[simp] theorem State.issue_key (s : State) (w : U32) : (s.issue w).key = s.key := rfl
@[simp] theorem State.issue_klen (s : State) (w : U32) : (s.issue w).klen = s.klen := rfl
@[simp] theorem State.issue_rk (s : State) (w : U32) : (s.issue w).rk = s.rk := rfl
@[simp] theorem State.issue_nr (s : State) (w : U32) : (s.issue w).nr = s.nr := rfl
@[simp] theorem State.issue_ksv (s : State) (w : U32) : (s.issue w).ksv = s.ksv := rfl
@[simp] theorem State.issue_nonce (s : State) (w : U32) : (s.issue w).nonce = s.nonce := rfl
@[simp] theorem State.issue_nlen (s : State) (w : U32) : (s.issue w).nlen = s.nlen := rfl
@[simp] theorem State.issue_mode (s : State) (w : U32) : (s.issue w).mode = s.mode := rfl
@[simp] theorem State.issue_phase (s : State) (w : U32) : (s.issue w).phase = s.phase := rfl
@[simp] theorem State.issue_ctx (s : State) (w : U32) : (s.issue w).ctx = s.ctx := rfl
@[simp] theorem State.issue_dmem (s : State) (w : U32) : (s.issue w).dmem = s.dmem := rfl
@[simp] theorem State.issue_inputs (s : State) (w : U32) : (s.issue w).inputs = s.inputs := rfl
@[simp] theorem State.issue_answers (s : State) (w : U32) : (s.issue w).answers = s.answers := rfl
@[simp] theorem State.issue_lastAccess (s : State) (w : U32) : (s.issue w).lastAccess = s.lastAccess := rfl
@[simp] theorem State.issue_pollsLeft (s : State) (w : U32) : (s.issue w).pollsLeft = Config.freePolls s.draws := rfl
@[simp] theorem State.issue_draws (s : State) (w : U32) : (s.issue w).draws = s.draws + 1 := rfl

/-! ## A poll (70_reset_and_hazards.md R372) -/

@[simp] theorem State.polled_cfg (s : State) : (s.polled).cfg = s.cfg := rfl
@[simp] theorem State.polled_busy (s : State) : (s.polled).busy = s.busy := rfl
@[simp] theorem State.polled_latch (s : State) : (s.polled).latch = s.latch := rfl
@[simp] theorem State.polled_args (s : State) : (s.polled).args = s.args := rfl
@[simp] theorem State.polled_errc (s : State) : (s.polled).errc = s.errc := rfl
@[simp] theorem State.polled_outlen (s : State) : (s.polled).outlen = s.outlen := rfl
@[simp] theorem State.polled_key (s : State) : (s.polled).key = s.key := rfl
@[simp] theorem State.polled_klen (s : State) : (s.polled).klen = s.klen := rfl
@[simp] theorem State.polled_rk (s : State) : (s.polled).rk = s.rk := rfl
@[simp] theorem State.polled_nr (s : State) : (s.polled).nr = s.nr := rfl
@[simp] theorem State.polled_ksv (s : State) : (s.polled).ksv = s.ksv := rfl
@[simp] theorem State.polled_nonce (s : State) : (s.polled).nonce = s.nonce := rfl
@[simp] theorem State.polled_nlen (s : State) : (s.polled).nlen = s.nlen := rfl
@[simp] theorem State.polled_mode (s : State) : (s.polled).mode = s.mode := rfl
@[simp] theorem State.polled_phase (s : State) : (s.polled).phase = s.phase := rfl
@[simp] theorem State.polled_ctx (s : State) : (s.polled).ctx = s.ctx := rfl
@[simp] theorem State.polled_dmem (s : State) : (s.polled).dmem = s.dmem := rfl
@[simp] theorem State.polled_inputs (s : State) : (s.polled).inputs = s.inputs := rfl
@[simp] theorem State.polled_answers (s : State) : (s.polled).answers = s.answers ++ [busyStatusWord s.draws] := rfl
@[simp] theorem State.polled_lastAccess (s : State) : (s.polled).lastAccess = .busy1 := rfl
@[simp] theorem State.polled_pollsLeft (s : State) : (s.polled).pollsLeft = s.pollsLeft - 1 := rfl
@[simp] theorem State.polled_draws (s : State) : (s.polled).draws = s.draws + 1 := rfl

/-! ## A completed access with BUSY = 0 (70_reset_and_hazards.md R374) -/

@[simp] theorem State.accessed_cfg (s : State) (rest : List Input) : (s.accessed rest).cfg = s.cfg := rfl
@[simp] theorem State.accessed_busy (s : State) (rest : List Input) : (s.accessed rest).busy = s.busy := rfl
@[simp] theorem State.accessed_latch (s : State) (rest : List Input) : (s.accessed rest).latch = s.latch := rfl
@[simp] theorem State.accessed_args (s : State) (rest : List Input) : (s.accessed rest).args = s.args := rfl
@[simp] theorem State.accessed_errc (s : State) (rest : List Input) : (s.accessed rest).errc = s.errc := rfl
@[simp] theorem State.accessed_outlen (s : State) (rest : List Input) : (s.accessed rest).outlen = s.outlen := rfl
@[simp] theorem State.accessed_key (s : State) (rest : List Input) : (s.accessed rest).key = s.key := rfl
@[simp] theorem State.accessed_klen (s : State) (rest : List Input) : (s.accessed rest).klen = s.klen := rfl
@[simp] theorem State.accessed_rk (s : State) (rest : List Input) : (s.accessed rest).rk = s.rk := rfl
@[simp] theorem State.accessed_nr (s : State) (rest : List Input) : (s.accessed rest).nr = s.nr := rfl
@[simp] theorem State.accessed_ksv (s : State) (rest : List Input) : (s.accessed rest).ksv = s.ksv := rfl
@[simp] theorem State.accessed_nonce (s : State) (rest : List Input) : (s.accessed rest).nonce = s.nonce := rfl
@[simp] theorem State.accessed_nlen (s : State) (rest : List Input) : (s.accessed rest).nlen = s.nlen := rfl
@[simp] theorem State.accessed_mode (s : State) (rest : List Input) : (s.accessed rest).mode = s.mode := rfl
@[simp] theorem State.accessed_phase (s : State) (rest : List Input) : (s.accessed rest).phase = s.phase := rfl
@[simp] theorem State.accessed_ctx (s : State) (rest : List Input) : (s.accessed rest).ctx = s.ctx := rfl
@[simp] theorem State.accessed_dmem (s : State) (rest : List Input) : (s.accessed rest).dmem = s.dmem := rfl
@[simp] theorem State.accessed_inputs (s : State) (rest : List Input) : (s.accessed rest).inputs = rest := rfl
@[simp] theorem State.accessed_answers (s : State) (rest : List Input) : (s.accessed rest).answers = s.answers := rfl
@[simp] theorem State.accessed_lastAccess (s : State) (rest : List Input) : (s.accessed rest).lastAccess = .busy0 := rfl
@[simp] theorem State.accessed_pollsLeft (s : State) (rest : List Input) :
    (s.accessed rest).pollsLeft = s.pollsLeft := rfl
@[simp] theorem State.accessed_draws (s : State) (rest : List Input) : (s.accessed rest).draws = s.draws := rfl

/-! ## A completed read with BUSY = 0 (20_memory.md R80) -/

@[simp] theorem State.answered_cfg (s : State) (rest : List Input) (v : U32) : (s.answered rest v).cfg = s.cfg := rfl
@[simp] theorem State.answered_busy (s : State) (rest : List Input) (v : U32) : (s.answered rest v).busy = s.busy := rfl
@[simp] theorem State.answered_latch (s : State) (rest : List Input) (v : U32) :
    (s.answered rest v).latch = s.latch := rfl
@[simp] theorem State.answered_args (s : State) (rest : List Input) (v : U32) : (s.answered rest v).args = s.args := rfl
@[simp] theorem State.answered_errc (s : State) (rest : List Input) (v : U32) : (s.answered rest v).errc = s.errc := rfl
@[simp] theorem State.answered_outlen (s : State) (rest : List Input) (v : U32) :
    (s.answered rest v).outlen = s.outlen := rfl
@[simp] theorem State.answered_key (s : State) (rest : List Input) (v : U32) : (s.answered rest v).key = s.key := rfl
@[simp] theorem State.answered_klen (s : State) (rest : List Input) (v : U32) : (s.answered rest v).klen = s.klen := rfl
@[simp] theorem State.answered_rk (s : State) (rest : List Input) (v : U32) : (s.answered rest v).rk = s.rk := rfl
@[simp] theorem State.answered_nr (s : State) (rest : List Input) (v : U32) : (s.answered rest v).nr = s.nr := rfl
@[simp] theorem State.answered_ksv (s : State) (rest : List Input) (v : U32) : (s.answered rest v).ksv = s.ksv := rfl
@[simp] theorem State.answered_nonce (s : State) (rest : List Input) (v : U32) :
    (s.answered rest v).nonce = s.nonce := rfl
@[simp] theorem State.answered_nlen (s : State) (rest : List Input) (v : U32) : (s.answered rest v).nlen = s.nlen := rfl
@[simp] theorem State.answered_mode (s : State) (rest : List Input) (v : U32) : (s.answered rest v).mode = s.mode := rfl
@[simp] theorem State.answered_phase (s : State) (rest : List Input) (v : U32) :
    (s.answered rest v).phase = s.phase := rfl
@[simp] theorem State.answered_ctx (s : State) (rest : List Input) (v : U32) : (s.answered rest v).ctx = s.ctx := rfl
@[simp] theorem State.answered_dmem (s : State) (rest : List Input) (v : U32) : (s.answered rest v).dmem = s.dmem := rfl
@[simp] theorem State.answered_inputs (s : State) (rest : List Input) (v : U32) :
    (s.answered rest v).inputs = rest := rfl
@[simp] theorem State.answered_answers (s : State) (rest : List Input) (v : U32) :
    (s.answered rest v).answers = s.answers ++ [v] := rfl
@[simp] theorem State.answered_lastAccess (s : State) (rest : List Input) (v : U32) :
    (s.answered rest v).lastAccess = .busy0 := rfl
@[simp] theorem State.answered_pollsLeft (s : State) (rest : List Input) (v : U32) :
    (s.answered rest v).pollsLeft = s.pollsLeft := rfl
@[simp] theorem State.answered_draws (s : State) (rest : List Input) (v : U32) :
    (s.answered rest v).draws = s.draws := rfl

/-! ## ZEROIZE (40_control.md R131) -/

@[simp] theorem State.zeroized_cfg (s : State) : (s.zeroized).cfg = s.cfg := rfl
@[simp] theorem State.zeroized_busy (s : State) : (s.zeroized).busy = s.busy := rfl
@[simp] theorem State.zeroized_latch (s : State) : (s.zeroized).latch = s.latch := rfl
@[simp] theorem State.zeroized_args (s : State) : (s.zeroized).args = s.args := rfl
@[simp] theorem State.zeroized_errc (s : State) : (s.zeroized).errc = s.errc := rfl
@[simp] theorem State.zeroized_outlen (s : State) : (s.zeroized).outlen = s.outlen := rfl
@[simp] theorem State.zeroized_key (s : State) : (s.zeroized).key = Vector.replicate 32 0 := rfl
@[simp] theorem State.zeroized_klen (s : State) : (s.zeroized).klen = .none := rfl
@[simp] theorem State.zeroized_rk (s : State) : (s.zeroized).rk = Vector.replicate 240 0 := rfl
@[simp] theorem State.zeroized_nr (s : State) : (s.zeroized).nr = 0 := rfl
@[simp] theorem State.zeroized_ksv (s : State) : (s.zeroized).ksv = false := rfl
@[simp] theorem State.zeroized_nonce (s : State) : (s.zeroized).nonce = Vector.replicate 32 0 := rfl
@[simp] theorem State.zeroized_nlen (s : State) : (s.zeroized).nlen = 0 := rfl
@[simp] theorem State.zeroized_mode (s : State) : (s.zeroized).mode = .none := rfl
@[simp] theorem State.zeroized_phase (s : State) : (s.zeroized).phase = .aad := rfl
@[simp] theorem State.zeroized_ctx (s : State) : (s.zeroized).ctx = Context.reset := rfl
@[simp] theorem State.zeroized_dmem (s : State) : (s.zeroized).dmem = s.dmem := rfl
@[simp] theorem State.zeroized_inputs (s : State) : (s.zeroized).inputs = s.inputs := rfl
@[simp] theorem State.zeroized_answers (s : State) : (s.zeroized).answers = s.answers := rfl
@[simp] theorem State.zeroized_lastAccess (s : State) : (s.zeroized).lastAccess = s.lastAccess := rfl
@[simp] theorem State.zeroized_pollsLeft (s : State) : (s.zeroized).pollsLeft = s.pollsLeft := rfl
@[simp] theorem State.zeroized_draws (s : State) : (s.zeroized).draws = s.draws := rfl

/-! ## The platform's reset (70_reset_and_hazards.md R360) -/

@[simp] theorem State.platformReset_cfg (s : State) : (s.platformReset).cfg = s.cfg := rfl
@[simp] theorem State.platformReset_busy (s : State) : (s.platformReset).busy = State.reset.busy := rfl
@[simp] theorem State.platformReset_latch (s : State) : (s.platformReset).latch = State.reset.latch := rfl
@[simp] theorem State.platformReset_args (s : State) : (s.platformReset).args = State.reset.args := rfl
@[simp] theorem State.platformReset_errc (s : State) : (s.platformReset).errc = State.reset.errc := rfl
@[simp] theorem State.platformReset_outlen (s : State) : (s.platformReset).outlen = State.reset.outlen := rfl
@[simp] theorem State.platformReset_key (s : State) : (s.platformReset).key = State.reset.key := rfl
@[simp] theorem State.platformReset_klen (s : State) : (s.platformReset).klen = State.reset.klen := rfl
@[simp] theorem State.platformReset_rk (s : State) : (s.platformReset).rk = State.reset.rk := rfl
@[simp] theorem State.platformReset_nr (s : State) : (s.platformReset).nr = State.reset.nr := rfl
@[simp] theorem State.platformReset_ksv (s : State) : (s.platformReset).ksv = State.reset.ksv := rfl
@[simp] theorem State.platformReset_nonce (s : State) : (s.platformReset).nonce = State.reset.nonce := rfl
@[simp] theorem State.platformReset_nlen (s : State) : (s.platformReset).nlen = State.reset.nlen := rfl
@[simp] theorem State.platformReset_mode (s : State) : (s.platformReset).mode = State.reset.mode := rfl
@[simp] theorem State.platformReset_phase (s : State) : (s.platformReset).phase = State.reset.phase := rfl
@[simp] theorem State.platformReset_ctx (s : State) : (s.platformReset).ctx = State.reset.ctx := rfl
@[simp] theorem State.platformReset_dmem (s : State) : (s.platformReset).dmem = State.reset.dmem := rfl
@[simp] theorem State.platformReset_inputs (s : State) : (s.platformReset).inputs = s.inputs := rfl
@[simp] theorem State.platformReset_answers (s : State) : (s.platformReset).answers = s.answers := rfl
@[simp] theorem State.platformReset_lastAccess (s : State) :
    (s.platformReset).lastAccess = State.reset.lastAccess := rfl
@[simp] theorem State.platformReset_pollsLeft (s : State) : (s.platformReset).pollsLeft = State.reset.pollsLeft := rfl
@[simp] theorem State.platformReset_draws (s : State) : (s.platformReset).draws = s.draws := rfl

/-! ## A latched word -/

@[simp] theorem State.withFetchWord_cfg (s : State) (nbits w : Nat) : (s.withFetchWord nbits w).cfg = s.cfg := rfl
@[simp] theorem State.withFetchWord_busy (s : State) (nbits w : Nat) : (s.withFetchWord nbits w).busy = true := rfl
@[simp] theorem State.withFetchWord_latch (s : State) (nbits w : Nat) :
    (s.withFetchWord nbits w).latch = wordOfTable nbits w := rfl
@[simp] theorem State.withFetchWord_args (s : State) (nbits w : Nat) : (s.withFetchWord nbits w).args = s.args := rfl
@[simp] theorem State.withFetchWord_errc (s : State) (nbits w : Nat) : (s.withFetchWord nbits w).errc = s.errc := rfl
@[simp] theorem State.withFetchWord_outlen (s : State) (nbits w : Nat) :
    (s.withFetchWord nbits w).outlen = s.outlen := rfl
@[simp] theorem State.withFetchWord_key (s : State) (nbits w : Nat) : (s.withFetchWord nbits w).key = s.key := rfl
@[simp] theorem State.withFetchWord_klen (s : State) (nbits w : Nat) : (s.withFetchWord nbits w).klen = s.klen := rfl
@[simp] theorem State.withFetchWord_rk (s : State) (nbits w : Nat) : (s.withFetchWord nbits w).rk = s.rk := rfl
@[simp] theorem State.withFetchWord_nr (s : State) (nbits w : Nat) : (s.withFetchWord nbits w).nr = s.nr := rfl
@[simp] theorem State.withFetchWord_ksv (s : State) (nbits w : Nat) : (s.withFetchWord nbits w).ksv = s.ksv := rfl
@[simp] theorem State.withFetchWord_nonce (s : State) (nbits w : Nat) : (s.withFetchWord nbits w).nonce = s.nonce := rfl
@[simp] theorem State.withFetchWord_nlen (s : State) (nbits w : Nat) : (s.withFetchWord nbits w).nlen = s.nlen := rfl
@[simp] theorem State.withFetchWord_mode (s : State) (nbits w : Nat) : (s.withFetchWord nbits w).mode = s.mode := rfl
@[simp] theorem State.withFetchWord_phase (s : State) (nbits w : Nat) : (s.withFetchWord nbits w).phase = s.phase := rfl
@[simp] theorem State.withFetchWord_ctx (s : State) (nbits w : Nat) : (s.withFetchWord nbits w).ctx = s.ctx := rfl
@[simp] theorem State.withFetchWord_dmem (s : State) (nbits w : Nat) : (s.withFetchWord nbits w).dmem = s.dmem := rfl
@[simp] theorem State.withFetchWord_inputs (s : State) (nbits w : Nat) : (s.withFetchWord nbits w).inputs = [] := rfl
@[simp] theorem State.withFetchWord_answers (s : State) (nbits w : Nat) :
    (s.withFetchWord nbits w).answers = s.answers := rfl
@[simp] theorem State.withFetchWord_lastAccess (s : State) (nbits w : Nat) :
    (s.withFetchWord nbits w).lastAccess = s.lastAccess := rfl
@[simp] theorem State.withFetchWord_pollsLeft (s : State) (nbits w : Nat) :
    (s.withFetchWord nbits w).pollsLeft = s.pollsLeft := rfl
@[simp] theorem State.withFetchWord_draws (s : State) (nbits w : Nat) : (s.withFetchWord nbits w).draws = s.draws := rfl

end Sys2Proof.Machine
end

