-- ==== Sys2Proof/Laws/Ops.lean ====
section
/-! SUPPORT. Everything the shared operations of the commands can do, said once each (00_scope.md R9,
60_exceptions.md R333, R334). -/

namespace Sys2Proof.Machine

open Sys2Proof

variable {s t : State} {e : ErrCode} {k : Result}

@[simp] theorem raiseErr_eq (e : ErrCode) (s : State) :
    raiseErr e s = .next { s with errc := e, outlen := 0, busy := false } := rfl

@[simp] theorem finish_eq (n : Nat) (s : State) :
    finish n s = .next { s with errc := .none, outlen := BitVec.ofNat 32 n, busy := false } := rfl

@[simp] theorem finishWrite_eq (n : Nat) (a : U32) (v : Bytes) (s : State) :
    finishWrite n a v s = .next { s with
      dmem := s.dmem.write a.toNat v, errc := .none, outlen := BitVec.ofNat 32 n, busy := false } := rfl

/-- A check that holds lets the command go on. -/
theorem require_of {c : Prop} [Decidable c] (h : c) : require c e s k = k := if_pos h

/-- A check that fails ends the command with its error code. -/
theorem require_of_not {c : Prop} [Decidable c] (h : ¬ c) : require c e s k = raiseErr e s := if_neg h

/-- What a check can do when a next state comes of it. -/
theorem require_next {c : Prop} [Decidable c] (h : require c e s k = .next t) :
    (c ∧ k = .next t) ∨ (¬ c ∧ t = s.completed e 0) := by
  by_cases hc : c
  · exact .inl ⟨hc, by rwa [require_of hc] at h⟩
  · rw [require_of_not hc] at h
    exact .inr ⟨hc, (Host.Outcome.next.inj h).symm⟩

theorem memRead_of {a : U32} {n : Nat} {v : Bytes} {k : Bytes → Result}
    (h : s.dmem.readBytes a.toNat n = some v) : memRead s a n k = k v := by simp [memRead, h]

theorem memRead_of_none {a : U32} {n : Nat} {k : Bytes → Result} (h : s.dmem.readBytes a.toNat n = none) :
    memRead s a n k = .fault .unwrittenDmem := by simp [memRead, h]

/-- What a MemRead can do when a next state comes of it. -/
theorem memRead_next {a : U32} {n : Nat} {k : Bytes → Result} (h : memRead s a n k = .next t) :
    ∃ v, s.dmem.readBytes a.toNat n = some v ∧ v.length = n ∧ k v = .next t := by
  unfold memRead at h
  split at h
  · rename_i v hv; exact ⟨v, hv, Memory.readBytes_length hv, h⟩
  · exact absurd h (by simp)

theorem finish_next {n : Nat} (h : finish n s = .next t) : t = s.completed .none n :=
  (Host.Outcome.next.inj h).symm

theorem finishWrite_next {n : Nat} {a : U32} {v : Bytes} (h : finishWrite n a v s = .next t) :
    t = (s.memWrite a v).completed .none n := (Host.Outcome.next.inj h).symm

end Sys2Proof.Machine
end

