-- ==== Sys2Proof/Laws/PerInstr.lean ====
section
/-! SUPPORT. One lemma per command, about the command as syntax: the word that encodes a well-formed command selects
the command's own row of the opcode map, `(w and mask) = match` (30_encoding.md R103). -/

namespace Sys2Proof.Laws.Encoding

open Sys2Proof

/-- The command's word selects its row of the opcode map (30_encoding.md R103). -/
def Statement (i : Instr) : Prop := i.wellFormed = true → encode i &&& tableMask i = tableMatch i

theorem klRow : ∀ kl < 4, encode (.keyld kl) &&& 0xFFFFCFFF = 0x00000002 := by decide

theorem cwRow : ∀ cw < 256, encode (.ctrInit cw) &&& 0x00FFFFFF = 0x00000030 := by decide +kernel

theorem tagRow : ∀ tl < 16, encode (.gcmTag tl) &&& 0xFFF0FFFF = 0x00000055 := by decide

theorem verifyRow : ∀ tl < 16, encode (.gcmVerify tl) &&& 0xFFF0FFFF = 0x00000056 := by decide

theorem openRow : ∀ tl < 16, encode (.gcmOpen tl) &&& 0xFFF0FFFF = 0x00000057 := by decide

theorem nop : Statement .nop := fun _ => by decide

theorem zeroize : Statement .zeroize := fun _ => by decide

theorem keyld (kl : Nat) : Statement (.keyld kl) := fun h => klRow kl (of_decide_eq_true h)

theorem nonceld : Statement .nonceld := fun _ => by decide

theorem aesKeyexp : Statement .aesKeyexp := fun _ => by decide

theorem aesEnc : Statement .aesEnc := fun _ => by decide

theorem aesDec : Statement .aesDec := fun _ => by decide

theorem chachaBlk : Statement .chachaBlk := fun _ => by decide

theorem hchacha : Statement .hchacha := fun _ => by decide

theorem chachaInit (x : Bool) : Statement (.chachaInit x) := fun _ => by cases x <;> decide

theorem chachaXor : Statement .chachaXor := fun _ => by decide

theorem ctrInit (cw : Nat) : Statement (.ctrInit cw) := fun h => cwRow cw (of_decide_eq_true h)

theorem ctrXor : Statement .ctrXor := fun _ => by decide

theorem cbcInit : Statement .cbcInit := fun _ => by decide

theorem cbcEnc (last pad : Bool) : Statement (.cbcEnc last pad) := fun _ => by cases last <;> cases pad <;> decide

theorem cbcDec (last pad : Bool) : Statement (.cbcDec last pad) := fun _ => by cases last <;> cases pad <;> decide

theorem gf128Mul : Statement .gf128Mul := fun _ => by decide

theorem gcmInit : Statement .gcmInit := fun _ => by decide

theorem gcmAad (last : Bool) : Statement (.gcmAad last) := fun _ => by cases last <;> decide

theorem gcmEnc (last : Bool) : Statement (.gcmEnc last) := fun _ => by cases last <;> decide

theorem gcmDec (last : Bool) : Statement (.gcmDec last) := fun _ => by cases last <;> decide

theorem gcmTag (tl : Nat) : Statement (.gcmTag tl) := fun h => tagRow tl (of_decide_eq_true h)

theorem gcmVerify (tl : Nat) : Statement (.gcmVerify tl) := fun h => verifyRow tl (of_decide_eq_true h)

theorem gcmOpen (tl : Nat) : Statement (.gcmOpen tl) := fun h => openRow tl (of_decide_eq_true h)

theorem poly1305 : Statement .poly1305 := fun _ => by decide

theorem cpInit (x : Bool) : Statement (.cpInit x) := fun _ => by cases x <;> decide

theorem cpAad (last : Bool) : Statement (.cpAad last) := fun _ => by cases last <;> decide

theorem cpEnc (last : Bool) : Statement (.cpEnc last) := fun _ => by cases last <;> decide

theorem cpDec (last : Bool) : Statement (.cpDec last) := fun _ => by cases last <;> decide

theorem cpTag : Statement .cpTag := fun _ => by decide

theorem cpVerify : Statement .cpVerify := fun _ => by decide

theorem cpOpen (x : Bool) : Statement (.cpOpen x) := fun _ => by cases x <;> decide

end Sys2Proof.Laws.Encoding
end

