-- ==== Sys2Proof/Laws/Step.lean ====
section
/-! SUPPORT. Everything the shared operations of a step can do, said once each: the engine's transition, the host's
writes and events, the step itself, and the command forms that two commands share. -/

namespace Sys2Proof.Machine

open Sys2Proof

variable {s t : State}

/-- A STATUS read that returns BUSY = 1 has bit 0 set (10_state.md R35). -/
@[simp] theorem busyStatusWord_bit0 (n : Nat) : (busyStatusWord n).getLsbD 0 = true := by
  rw [busyStatusWord, BitVec.getLsbD_append]
  rfl

/-- The engine executes the decoded command, or ends with ILLEGAL. -/
theorem engineStep_next (h : engineStep s = .next t) :
    (∃ i, decode s.latch = .ok i ∧ exec i s = .next t) ∨ t = s.completed .illegal 0 := by
  unfold engineStep at h
  split at h
  · exact .inl ⟨_, ‹_›, h⟩
  · exact .inr (Host.Outcome.next.inj h).symm

/-- A host write with BUSY = 0 does nothing, issues a command, writes argument registers, or writes DMEM in range. -/
theorem hostWrite_ok {bits off : Nat} {v : U32} (h : hostWrite s bits off v = .ok t) :
    t = s ∨ t = s.issue v ∨ (∃ a, t = { s with args := a }) ∨
    (off - dmemWindow < s.dmemSize ∧ (bits = 8 ∨ bits = 16 ∨ bits = 32) ∧ off % (bits / 8) = 0 ∧ dmemWindow ≤ off ∧
      t = { s with dmem := s.dmem.write (off - dmemWindow) (leBytes (bits / 8) v.toNat) }) := by
  unfold hostWrite at h
  by_cases hl : accessLegal bits off
  · rw [if_neg (not_not.mpr hl)] at h
    by_cases hw : off < dmemWindow
    · rw [if_pos hw] at h
      split at h
      · rename_i r _
        have h := Except.ok.inj h
        cases r <;> simp only [writeReg] at h
        · exact .inl h.symm
        · exact .inl h.symm
        · exact .inr (.inl h.symm)
        · exact .inl h.symm
        all_goals exact .inr (.inr (.inl ⟨_, h.symm⟩))
      · exact .inl (Except.ok.inj h).symm
    · rw [if_neg hw] at h
      rw [accessLegal, if_neg hw] at hl
      split at h
      · exact .inr (.inr (.inr ⟨‹_›, hl.1, hl.2, Nat.le_of_not_lt hw, (Except.ok.inj h).symm⟩))
      · exact .inl (Except.ok.inj h).symm
  · rw [if_pos hl] at h
    exact absurd h (by simp)

/-- What an event can do with BUSY = 0: an answer, a write, or a reset. -/
theorem hostIdle_next {i : Input} {rest : List Input} (h : hostIdle i rest s = .next t) :
    (∃ v, t = s.answered rest v) ∨
    (∃ bits off v u, i = .write bits off v ∧ hostWrite s bits off.toNat v = .ok u ∧ t = u.accessed rest) ∨
    (i = .reset ∧ t = { s.platformReset with inputs := rest }) := by
  cases i with
  | read bits off =>
    simp only [hostIdle] at h
    split at h
    · exact .inl ⟨_, (Host.Outcome.next.inj h).symm⟩
    · exact absurd h (by simp)
  | write bits off v =>
    simp only [hostIdle] at h
    split at h
    · exact .inr (.inl ⟨bits, off, v, _, rfl, ‹_›, (Host.Outcome.next.inj h).symm⟩)
    · exact absurd h (by simp)
  | wait => exact .inl ⟨_, (Host.Outcome.next.inj h).symm⟩
  | reset => exact .inr (.inr ⟨rfl, (Host.Outcome.next.inj h).symm⟩)

/-- What an event can do with BUSY = 1: a poll, or a reset. -/
theorem hostBusy_next {i : Input} {rest : List Input} (h : hostBusy i rest s = .next t) :
    (i.readsStatus = true ∧ ∃ l, t = { s.polled with inputs := l }) ∨
    (i = .reset ∧ t = { s.platformReset with inputs := rest }) := by
  cases i with
  | read bits off =>
    simp only [hostBusy] at h
    split at h
    · exact .inl ⟨‹_›, rest, (Host.Outcome.next.inj h).symm⟩
    · exact absurd h (by simp)
  | write bits off v => exact absurd h (by simp [hostBusy])
  | wait => exact .inl ⟨rfl, s.polled.inputs, (Host.Outcome.next.inj h).symm⟩
  | reset => exact .inr ⟨rfl, (Host.Outcome.next.inj h).symm⟩

/-- Everything a step can do when it answers a next state. -/
theorem step_next (h : step s = .next t) :
    (s.busy = true ∧ engineStep s = .next t) ∨
    (∃ i rest, s.inputs = i :: rest ∧ s.busy = true ∧ hostBusy i rest s = .next t) ∨
    (∃ i rest, s.inputs = i :: rest ∧ s.busy = false ∧ hostIdle i rest s = .next t) ∨
    (s.inputs = [] ∧ s.busy = false ∧ t = s) := by
  unfold step turn hostStep at h
  cases hb : s.busy <;> cases hi : s.inputs with
  | nil => simp_all
  | cons i rest =>
    simp only [hb, hi] at h
    cases hr : i.readsStatus <;> by_cases hp : s.pollsLeft = 0 <;> simp_all

/-- What a one-block AES command can do: an error, or its block written at A.DST. -/
theorem aesBlockCommand_next {f : Bytes → Bytes} (h : aesBlockCommand f s = .next t) :
    (∃ e, e ≠ .none ∧ t = s.completed e 0) ∨
    ∃ b, s.dmem.readBytes s.args.src.toNat 16 = some b ∧ t = (s.memWrite s.args.dst (f b)).completed .none 16 := by
  rcases require_next h with ⟨_, h⟩ | ⟨_, rfl⟩
  · rcases require_next h with ⟨_, h⟩ | ⟨_, rfl⟩
    · obtain ⟨b, hb, _, h⟩ := memRead_next h
      exact .inr ⟨b, hb, finishWrite_next h⟩
    · exact .inl ⟨_, by simp, rfl⟩
  · exact .inl ⟨_, by simp, rfl⟩

/-- What a GCM text command can do: an error, or its chunk XOR the keystream written at A.DST and absorbed. -/
theorem gcmTextCommand_next {f : Bytes → Bytes → Bytes} {last : Bool} (h : gcmTextCommand f last s = .next t) :
    (∃ e, e ≠ .none ∧ t = s.completed e 0) ∨
    (s.takesText .gcm ∧ s.inBounds s.args.dst s.argLen ∧ s.ctx.lenc + s.argLen ≤ gcmTextMax ∧
      ∃ d o, s.dmem.readBytes s.args.src.toNat s.argLen = some d ∧ d.length = s.argLen ∧
        o = xorBytes d (s.gcmStream s.argLen) ∧
        finishWrite s.argLen s.args.dst o
          { s with
            phase := phaseAfterText last,
            ctx := { s.ctx with y := toReg 16 (s.ghashAbsorb (f d o)), lenc := s.ctx.lenc + s.argLen } } =
          .next t) := by
  rcases require_next h with ⟨h1, h⟩ | ⟨_, rfl⟩
  · rcases require_next h with ⟨_, h⟩ | ⟨_, rfl⟩
    · rcases require_next h with ⟨h3, h⟩ | ⟨_, rfl⟩
      · rcases require_next h with ⟨h4, h⟩ | ⟨_, rfl⟩
        · obtain ⟨d, hd, hl, h⟩ := memRead_next h
          exact .inr ⟨h1, h3.2, h4, d, _, hd, hl, rfl, h⟩
        · exact .inl ⟨_, by simp, rfl⟩
      · exact .inl ⟨_, by simp, rfl⟩
    · exact .inl ⟨_, by simp, rfl⟩
  · exact .inl ⟨_, by simp, rfl⟩

/-- What a CP text command can do: an error, or its chunk XOR the keystream written at A.DST and absorbed. -/
theorem cpTextCommand_next {f : Bytes → Bytes → Bytes} {last : Bool} (h : cpTextCommand f last s = .next t) :
    (∃ e, e ≠ .none ∧ t = s.completed e 0) ∨
    (s.takesText .cp ∧ s.inBounds s.args.dst s.argLen ∧ s.ctx.kidx + s.argLen ≤ chachaKsLen ∧
      ∃ d o, s.dmem.readBytes s.args.src.toNat s.argLen = some d ∧ d.length = s.argLen ∧
        o = xorBytes d (s.chachaStream s.argLen) ∧
        finishWrite s.argLen s.args.dst o
          { s with
            phase := phaseAfterText last,
            ctx := { s.ctx with
              acc := s.polyAbsorbed (f d o), kidx := s.ctx.kidx + s.argLen, lenc := s.ctx.lenc + s.argLen } } =
          .next t) := by
  rcases require_next h with ⟨h1, h⟩ | ⟨_, rfl⟩
  · rcases require_next h with ⟨_, h⟩ | ⟨_, rfl⟩
    · rcases require_next h with ⟨h3, h⟩ | ⟨_, rfl⟩
      · rcases require_next h with ⟨h4, h⟩ | ⟨_, rfl⟩
        · obtain ⟨d, hd, hl, h⟩ := memRead_next h
          exact .inr ⟨h1, h3.2, h4, d, _, hd, hl, rfl, h⟩
        · exact .inl ⟨_, by simp, rfl⟩
      · exact .inl ⟨_, by simp, rfl⟩
    · exact .inl ⟨_, by simp, rfl⟩
  · exact .inl ⟨_, by simp, rfl⟩

end Sys2Proof.Machine
end

