-- ==== Sys2Proof/Tests/Slice0.lean ====
section
/-! SUPPORT. Tests of the model: ill-formed commands, command words written out from 30_encoding.md R101, the vectors
of 95_test_vectors.md, and for each statement with hypotheses a state that meets them. -/

namespace Sys2Proof.Tests

open Sys2Proof Sys2Proof.Machine

set_option Elab.async false

/-! ## Ill-formed commands (30_encoding.md R101) -/

theorem test_illFormed_kl : (Instr.keyld 4).wellFormed = false ∧ (Instr.keyld 3).wellFormed = true := by decide

theorem test_illFormed_cw : (Instr.ctrInit 256).wellFormed = false ∧ (Instr.ctrInit 255).wellFormed = true := by
  decide

theorem test_illFormed_tl :
    (Instr.gcmTag 16).wellFormed = false ∧ (Instr.gcmVerify 16).wellFormed = false ∧
    (Instr.gcmOpen 16).wellFormed = false ∧ (Instr.gcmOpen 15).wellFormed = true := by decide

/-! ## Command words, written out from 30_encoding.md R101 and R103: CW, reserved, TL, reserved, KL, reserved, X, P, L,
OP, from bit 31 down. -/

theorem test_decode_nop : decode 0b00000000_0000_0000_00_00_0_0_0_0_00000000 = .ok .nop := by decide
theorem test_decode_zeroize : decode 0b00000000_0000_0000_00_00_0_0_0_0_00000001 = .ok .zeroize := by decide
theorem test_decode_keyld : decode 0b00000000_0000_0000_00_10_0_0_0_0_00000010 = .ok (.keyld 2) := by decide
theorem test_decode_nonceld : decode 0b00000000_0000_0000_00_00_0_0_0_0_00000011 = .ok .nonceld := by decide
theorem test_decode_aesKeyexp : decode 0b00000000_0000_0000_00_00_0_0_0_0_00010000 = .ok .aesKeyexp := by decide
theorem test_decode_aesEnc : decode 0b00000000_0000_0000_00_00_0_0_0_0_00010001 = .ok .aesEnc := by decide
theorem test_decode_aesDec : decode 0b00000000_0000_0000_00_00_0_0_0_0_00010010 = .ok .aesDec := by decide
theorem test_decode_chachaBlk : decode 0b00000000_0000_0000_00_00_0_0_0_0_00100000 = .ok .chachaBlk := by decide
theorem test_decode_hchacha : decode 0b00000000_0000_0000_00_00_0_0_0_0_00100001 = .ok .hchacha := by decide
theorem test_decode_chachaInit : decode 0b00000000_0000_0000_00_00_0_1_0_0_00100010 = .ok (.chachaInit true) := by decide
theorem test_decode_chachaXor : decode 0b00000000_0000_0000_00_00_0_0_0_0_00100011 = .ok .chachaXor := by decide
theorem test_decode_ctrInit : decode 0b10000000_0000_0000_00_00_0_0_0_0_00110000 = .ok (.ctrInit 128) := by decide
theorem test_decode_ctrXor : decode 0b00000000_0000_0000_00_00_0_0_0_0_00110001 = .ok .ctrXor := by decide
theorem test_decode_cbcInit : decode 0b00000000_0000_0000_00_00_0_0_0_0_01000000 = .ok .cbcInit := by decide
theorem test_decode_cbcEnc : decode 0b00000000_0000_0000_00_00_0_0_1_0_01000001 = .ok (.cbcEnc false true) := by decide
theorem test_decode_cbcDec : decode 0b00000000_0000_0000_00_00_0_0_0_1_01000010 = .ok (.cbcDec true false) := by decide
theorem test_decode_gf128Mul : decode 0b00000000_0000_0000_00_00_0_0_0_0_01010000 = .ok .gf128Mul := by decide
theorem test_decode_gcmInit : decode 0b00000000_0000_0000_00_00_0_0_0_0_01010001 = .ok .gcmInit := by decide
theorem test_decode_gcmAad : decode 0b00000000_0000_0000_00_00_0_0_0_1_01010010 = .ok (.gcmAad true) := by decide
theorem test_decode_gcmEnc : decode 0b00000000_0000_0000_00_00_0_0_0_1_01010011 = .ok (.gcmEnc true) := by decide
theorem test_decode_gcmDec : decode 0b00000000_0000_0000_00_00_0_0_0_0_01010100 = .ok (.gcmDec false) := by decide
theorem test_decode_gcmTag : decode 0b00000000_0000_1011_00_00_0_0_0_0_01010101 = .ok (.gcmTag 11) := by decide
theorem test_decode_gcmVerify : decode 0b00000000_0000_0011_00_00_0_0_0_0_01010110 = .ok (.gcmVerify 3) := by decide
theorem test_decode_gcmOpen : decode 0b00000000_0000_1111_00_00_0_0_0_0_01010111 = .ok (.gcmOpen 15) := by decide
theorem test_decode_poly1305 : decode 0b00000000_0000_0000_00_00_0_0_0_0_01100000 = .ok .poly1305 := by decide
theorem test_decode_cpInit : decode 0b00000000_0000_0000_00_00_0_1_0_0_01100001 = .ok (.cpInit true) := by decide
theorem test_decode_cpAad : decode 0b00000000_0000_0000_00_00_0_0_0_1_01100010 = .ok (.cpAad true) := by decide
theorem test_decode_cpEnc : decode 0b00000000_0000_0000_00_00_0_0_0_0_01100011 = .ok (.cpEnc false) := by decide
theorem test_decode_cpDec : decode 0b00000000_0000_0000_00_00_0_0_0_1_01100100 = .ok (.cpDec true) := by decide
theorem test_decode_cpTag : decode 0b00000000_0000_0000_00_00_0_0_0_0_01100101 = .ok .cpTag := by decide
theorem test_decode_cpVerify : decode 0b00000000_0000_0000_00_00_0_0_0_0_01100110 = .ok .cpVerify := by decide
theorem test_decode_cpOpen : decode 0b00000000_0000_0000_00_00_0_1_0_0_01100111 = .ok (.cpOpen true) := by decide

/-- The illegal words of 95_test_vectors.md section 3.1 with a bit outside their opcode's fields. -/
theorem test_decode_reservedBits :
    decode 0x00004002 = .error .reservedBits ∧ decode 0x0000C002 = .error .reservedBits ∧
    decode 0x00000802 = .error .reservedBits ∧ decode 0x00000100 = .error .reservedBits ∧
    decode 0x00000323 = .error .reservedBits ∧ decode 0x00000522 = .error .reservedBits ∧
    decode 0x00000462 = .error .reservedBits ∧ decode 0x00000742 = .error .reservedBits ∧
    decode 0x01000031 = .error .reservedBits ∧ decode 0x00100055 = .error .reservedBits ∧
    decode 0x00000111 = .error .reservedBits := by decide

/-- The illegal words of 95_test_vectors.md section 3.1 with an unassigned OP. -/
theorem test_decode_unassignedOp :
    decode 0x00000004 = .error .unassignedOp ∧ decode 0x00000068 = .error .unassignedOp ∧
    decode 0xFFFFFFFF = .error .unassignedOp := by decide

/-! ## Small states -/

/-- The byte string of the low n bytes of a number written in hex, first byte first. -/
def hex (n v : Nat) : Bytes := beBytes n v

/-- The n bytes from b on: b, b + 1, ... -/
def ramp (b n : Nat) : Bytes := (List.range n).map fun i => BitVec.ofNat 8 (b + i)

def withArgs (src dst len : U32) (s : State) : State := { s with args := { s.args with src := src, dst := dst, len := len } }
def withAux (aux0 aux1 : U32) (s : State) : State := { s with args := { s.args with aux0 := aux0, aux1 := aux1 } }
def withTag (tag : U32) (s : State) : State := { s with args := { s.args with tag := tag } }
def withAad (aad aadlen : U32) (s : State) : State := { s with args := { s.args with aad := aad, aadlen := aadlen } }

/-- v at DMEM[a ..). -/
def put (a : Nat) (v : Bytes) (s : State) : State := { s with dmem := s.dmem.write a v }

/-- NONCE and NLEN. -/
def nonce (v : Bytes) (s : State) : State := { s with nonce := toReg 32 v, nlen := Fin.ofNat 33 v.length }

/-- A stream: MODE, PHASE and the context. -/
def stream (m : Mode) (p : Phase) (c : Context) (s : State) : State := { s with mode := m, phase := p, ctx := c }

/-- A loaded 32-byte key. -/
def key32 (k : Bytes) : State := { State.reset with key := toReg 32 k, klen := .k32 }

/-- A loaded 16-byte key with its schedule. -/
def aes128 (k : Bytes) : State :=
  { State.reset with
    key := toReg 32 k, klen := .k16, rk := toReg 240 (keyExpansion 4 k).flatten, nr := 10, ksv := true }

/-- The state of the `aes128` kind with an all-zero schedule, for tests that only look at checks. -/
def aesReady : State := { State.reset with klen := .k16, nr := 10, ksv := true }

/-- The n bytes at a, as one number, after the command. -/
def outAt (r : Result) (a n : Nat) : Option Nat :=
  match r with
  | .next t => (t.dmem.readBytes a n).map be
  | _ => none

/-- STATUS after the command. -/
def statusAfter (r : Result) : Option Nat :=
  match r with
  | .next t => some (statusWord t).toNat
  | _ => none

/-- A function of the state after the command. -/
def after {α : Type} (f : State → α) (r : Result) : Option α :=
  match r with
  | .next t => some (f t)
  | _ => none

def sp80038aKey : Bytes := hex 16 0x2b7e151628aed2a6abf7158809cf4f3c
def aeadKey : State := nonce (hex 12 0x070000004041424344454647) (key32 (ramp 0x80 32))

/-! ## Vectors -/

/-- 40_control.md R130: NOP clears an error code. -/
theorem test_nop : statusAfter (exec .nop { State.reset with errc := .illegal }) = some 0 := by decide

/-- 40_control.md R131: after ZEROIZE, STATUS reads 0. -/
theorem test_zeroize : statusAfter (exec .zeroize (nonce (ramp 0 12) aesReady)) = some 0 := by decide

/-- 95_test_vectors.md section 3.2. -/
theorem test_keyld :
    after (fun t => (be t.key.toList, statusWord t)) (exec (.keyld 2) (put 0 (ramp 0 32) State.reset)) =
      some (be (ramp 0 32), 0x00000300) := by decide +kernel

theorem test_keyld_bounds :
    statusAfter (exec (.keyld 0) (withArgs 0xFFF8 0 0 State.reset)) = some 0x00000052 := by decide

theorem test_nonceld :
    statusAfter (exec .nonceld (withArgs 0 0 32 (put 0 (ramp 0 32) { State.reset with klen := .k32 }))) =
      some 0x20000300 := by decide +kernel

theorem test_nonceld_arg :
    statusAfter (exec .nonceld (withArgs 0 0 33 { State.reset with klen := .k32 })) = some 0x00000342 := by decide

/-- FIPS 197 A.1: w[4] and w[43] (95_test_vectors.md section 2.1). -/
theorem test_aesKeyexp :
    after (fun t => (be (slice t.rk.toList 16 20), be (slice t.rk.toList 172 176)))
      (exec .aesKeyexp { State.reset with key := toReg 32 sp80038aKey, klen := .k16 }) =
      some (0xa0fafe17, 0xb6630ca6) := by decide +kernel

/-- FIPS 197 A.3: w[8] and w[59] (95_test_vectors.md section 2.1). -/
theorem test_aesKeyexp_256 :
    after (fun t => (be (slice t.rk.toList 32 36), be (slice t.rk.toList 236 240)))
      (exec .aesKeyexp
        (key32 (hex 32 0x603deb1015ca71be2b73aef0857d77811f352c073b6108d72d9810a30914dff4))) =
      some (0x9ba35411, 0x706c631e) := by decide +kernel

/-- FIPS 197 C.1 (95_test_vectors.md section 2.1). -/
theorem test_aesEnc :
    outAt (exec .aesEnc
      (withArgs 0 0x20 0 (put 0 (hex 16 0x00112233445566778899aabbccddeeff) (aes128 (ramp 0 16))))) 0x20 16 =
      some 0x69c4e0d86a7b0430d8cdb78070b4c55a := by decide +kernel

theorem test_aesDec :
    outAt (exec .aesDec
      (withArgs 0 0 0 (put 0 (hex 16 0x69c4e0d86a7b0430d8cdb78070b4c55a) (aes128 (ramp 0 16))))) 0 16 =
      some 0x00112233445566778899aabbccddeeff := by decide +kernel

/-- RFC 8439 section 2.3.2 (95_test_vectors.md section 2.2). -/
theorem test_chachaBlk :
    outAt (exec .chachaBlk
      (withAux 1 0 (nonce (hex 12 0x000000090000004a00000000) (key32 (ramp 0 32))))) 0 64 =
      some 0x10f1e7e4d13b5915500fdd1fa32071c4c7d1f4c733c068030422aa9ac3d46c4ed2826446079faa0914c2d705d98b02a2b5129cd1de164eb9cbd083e8a2503c4e := by
  decide +kernel

/-- draft-irtf-cfrg-xchacha-03 section 2.2.1 (95_test_vectors.md section 2.2). -/
theorem test_hchacha :
    outAt (exec .hchacha
      (withArgs 0 16 0 (put 0 (hex 16 0x000000090000004a0000000031415927) (key32 (ramp 0 32))))) 16 32 =
      some 0x82413b4227b27bfed30e42508a877d73a0f9e4d58a74a853c12ec41326d3ecdc := by decide +kernel

/-- 95_test_vectors.md section 3.4: KIDX = 2^38 + 1 is refused. -/
theorem test_chachaInit_limit :
    statusAfter (exec (.chachaInit false) (withAux 0xFFFFFFFF 65 (nonce (zeros 12) (key32 (ramp 0 32))))) =
      some 0x0C000362 := by decide

/-- 95_test_vectors.md section 3.4: KIDX = 2^38 is the end of the keystream. -/
theorem test_chachaInit_end :
    after (fun t => (t.ctx.kidx, statusWord t))
      (exec (.chachaInit false) (withAux 0xFFFFFFFF 64 (nonce (zeros 12) (key32 (ramp 0 32))))) =
      some (2 ^ 38, 0x0C001300) := by decide

/-- 95_test_vectors.md section 3.4, bytes 62 to 65 of the stream of 130 zero bytes, across a block boundary. -/
theorem test_chachaXor :
    outAt (exec .chachaXor (withArgs 0 0 4 (put 0 (zeros 4) (stream .chacha .aad
      { Context.reset with
        skey := toReg 32 (ramp 0 32), snonce := toReg 12 (hex 12 0x000000000000004a00000000), kidx := 64 + 62 }
      State.reset)))) 0 4 = some 0x41b769a6 := by decide +kernel

/-- 95_test_vectors.md section 3.5: cw = 8 and c0 = 0xFF leave 16 bytes. -/
theorem test_ctrInit_limit :
    statusAfter (exec (.ctrInit 8) (withAux 0 17 (nonce (ramp 0xf0 16) aesReady))) = some 0x10000562 := by
  decide +kernel

theorem test_ctrInit_end :
    statusAfter (exec (.ctrInit 8) (withAux 1 0 (nonce (ramp 0xf0 16) aesReady))) = some 0x10002500 := by
  decide +kernel

/-- SP 800-38A F.5.1, the bytes 14 to 17 of the ciphertext (95_test_vectors.md section 2.3). -/
theorem test_ctrXor :
    outAt (exec .ctrXor (withArgs 0 0 4 (put 0 (hex 4 0x172aae2d) (stream .ctr .aad
      { Context.reset with ctr0 := toReg 16 (ramp 0xf0 16), cw := 128, kidx := 14 } (aes128 sp80038aKey))))) 0 4 =
      some 0xb6ce9806 := by decide +kernel

/-- 44_cbc.md R230: CBC_INIT sets MODE to 3. -/
theorem test_cbcInit : statusAfter (exec .cbcInit (nonce (ramp 0 16) aesReady)) = some 0x10003500 := by decide +kernel

/-- 95_test_vectors.md section 3.6: the block of sixteen 0x10 bytes after F.2.1's ciphertext. -/
theorem test_cbcEnc_pad :
    outAt (exec (.cbcEnc true true) (stream .cbc .aad
      { Context.reset with chain := toReg 16 (hex 16 0x3ff1caa1681fac09120eca307586e1a7) }
      (aes128 sp80038aKey))) 0 16 = some 0x8cb82807230e1321d3fae00d18cc2012 := by decide +kernel

/-- 95_test_vectors.md section 3.6: a last pad byte of 0 raises PAD and closes the stream. -/
theorem test_cbcDec_badPad :
    after (fun t => (t.errc, t.phase, t.outlen)) (exec (.cbcDec true true)
      (withArgs 0 0 16 (put 0 (hex 16 0x50fe67cc996d32b6da0937e99bafec60) (stream .cbc .aad
        { Context.reset with chain := toReg 16 (ramp 0 16) } (aes128 sp80038aKey))))) =
      some (.pad, .done, 0) := by decide +kernel

/-- 95_test_vectors.md section 3.6: pad byte 1 leaves 15 bytes. -/
theorem test_cbcDec_pad :
    after (fun t => (t.errc, t.outlen)) (exec (.cbcDec true true)
      (withArgs 0 0 16 (put 0 (hex 16 0xe9bf1ec133b1315f86a98c7d6cefc1a3) (stream .cbc .aad
        { Context.reset with chain := toReg 16 (ramp 0 16) } (aes128 sp80038aKey))))) =
      some (.none, 15) := by decide +kernel

/-- 95_test_vectors.md section 3.7: x^127 times x. -/
theorem test_gf128Mul :
    outAt (exec .gf128Mul (withAux 16 0 (withArgs 0 0 0
      (put 0 (hex 16 0x01 ++ hex 16 0x40000000000000000000000000000000) State.reset)))) 0 16 =
      some 0xe1000000000000000000000000000000 := by decide +kernel

/-- GCM test case 1 (95_test_vectors.md section 2.4): H and J0. -/
theorem test_gcmInit :
    after (fun t => (be t.ctx.h.toList, be t.ctx.j0.toList)) (exec .gcmInit (nonce (zeros 12) (aes128 (zeros 16)))) =
      some (0x66e94bd4ef8a2c3b884cfa59ca342b2e, 1) := by decide +kernel

/-- The context of GCM test cases 1 and 2 after GCM_INIT. -/
def gcmZero : Context :=
  { Context.reset with h := toReg 16 (hex 16 0x66e94bd4ef8a2c3b884cfa59ca342b2e), j0 := toReg 16 (hex 16 1) }

/-- The GHASH state of GCM test case 2 (95_test_vectors.md section 2.4), absorbed as if it were AAD. -/
theorem test_gcmAad :
    after (fun t => (be t.ctx.y.toList, t.ctx.lena, t.phase)) (exec (.gcmAad true)
      (withArgs 0 0 16 (put 0 (hex 16 0x0388dace60b6a392f328c2b971b2fe78) (stream .gcm .aad gcmZero aesReady)))) =
      some (0x5e2ec746917062882c85b0685353deb7, 16, .text) := by decide +kernel

/-- GCM test case 2 (95_test_vectors.md section 2.4), the first two bytes of the ciphertext. -/
theorem test_gcmEnc :
    outAt (exec (.gcmEnc true)
      (withArgs 0 0 2 (put 0 (zeros 2) (stream .gcm .aad gcmZero (aes128 (zeros 16)))))) 0 2 =
      some 0x0388 := by decide +kernel

/-- GCM_DEC absorbs the ciphertext of GCM test case 2, its input. -/
theorem test_gcmDec :
    after (fun t => (be t.ctx.y.toList, t.phase)) (exec (.gcmDec true)
      (withArgs 0 0 16 (put 0 (hex 16 0x0388dace60b6a392f328c2b971b2fe78)
        (stream .gcm .text gcmZero (aes128 (zeros 16)))))) =
      some (0x5e2ec746917062882c85b0685353deb7, .fin) := by decide +kernel

/-- GCM test case 1 (95_test_vectors.md section 2.4). -/
theorem test_gcmTag :
    outAt (exec (.gcmTag 15) (stream .gcm .aad gcmZero (aes128 (zeros 16)))) 0 16 =
      some 0x58e2fccefa7e3061367f1d57a4e7455a := by decide +kernel

theorem test_gcmVerify :
    after (fun t => (t.errc, t.phase)) (exec (.gcmVerify 15) (put 0 (hex 16 0x58e2fccefa7e3061367f1d57a4e7455a)
      (stream .gcm .aad gcmZero (aes128 (zeros 16))))) = some (.none, .done) := by decide +kernel

theorem test_gcmVerify_auth :
    after (fun t => (t.errc, t.phase)) (exec (.gcmVerify 15) (put 0 (zeros 16)
      (stream .gcm .aad gcmZero (aes128 (zeros 16))))) = some (.auth, .done) := by decide +kernel

/-- GCM test case 1 with GCM_OPEN (95_test_vectors.md section 2.4). -/
theorem test_gcmOpen :
    after (fun t => (t.errc, t.outlen)) (exec (.gcmOpen 15)
      (put 0 (hex 16 0x58e2fccefa7e3061367f1d57a4e7455a) (nonce (zeros 12) (aes128 (zeros 16))))) =
      some (.none, 0) := by decide +kernel

theorem test_gcmOpen_auth :
    after (fun t => (t.errc, t.phase, t.outlen)) (exec (.gcmOpen 15)
      (put 0 (hex 16 0x58e2fccefa7e3061367f1d57a4e7455b) (nonce (zeros 12) (aes128 (zeros 16))))) =
      some (.auth, .aad, 0) := by decide +kernel

/-- RFC 8439 section 2.5.2's key on an empty message: the tag is s (46_poly1305_aead.md R292). -/
theorem test_poly1305_empty :
    outAt (exec .poly1305 (put 0 (hex 32 0x85d6be7857556d337f4452fe42d506a80103808afb0db2fd4abff6af4149f51b) State.reset))
      0 16 = some 0x0103808afb0db2fd4abff6af4149f51b := by decide +kernel

/-- RFC 8439 A.3 #7 (95_test_vectors.md section 2.5). -/
theorem test_poly1305 :
    outAt (exec .poly1305 (withAux 48 0 (withArgs 0 0 48 (put 0
      (hex 16 0xffffffffffffffffffffffffffffffff ++ hex 16 0xf0ffffffffffffffffffffffffffffff ++
        hex 16 0x11000000000000000000000000000000 ++ hex 32 (2 ^ 248)) State.reset)))) 0 16 =
      some 0x05000000000000000000000000000000 := by decide +kernel

/-- RFC 8439 section 2.8.2 (46_poly1305_aead.md R293): PR, PS and KIDX. -/
theorem test_cpInit :
    after (fun t => (t.ctx.pr, t.ctx.ps, t.ctx.kidx)) (exec (.cpInit false) aeadKey) =
      some (0x0455e9a4057ab6080f47b42c052bac7b, 0xff53d53e7875932aebd9751073d6e10a, 64) := by decide +kernel

/-- The context of RFC 8439 section 2.8.2 after CP_INIT. -/
def cpStart : Context :=
  { Context.reset with
    skey := toReg 32 (ramp 0x80 32), snonce := toReg 12 (hex 12 0x070000004041424344454647), kidx := 64,
    pr := 0x0455e9a4057ab6080f47b42c052bac7b, ps := 0xff53d53e7875932aebd9751073d6e10a }

/-- 46_poly1305_aead.md R294: the 12-byte AAD leaves LENA = 12 and PHASE = 1. -/
theorem test_cpAad :
    after (fun t => (t.ctx.lena, t.phase)) (exec (.cpAad true) (withArgs 0 0 12
      (put 0 (hex 12 0x50515253c0c1c2c3c4c5c6c7) (stream .cp .aad cpStart aeadKey)))) = some (12, .text) := by
  decide +kernel

/-- RFC 8439 section 2.8.2, the first four bytes (95_test_vectors.md section 2.5). -/
theorem test_cpEnc :
    outAt (exec (.cpEnc true) (withArgs 0 0 4 (put 0 (hex 4 0x4c616469) (stream .cp .text cpStart aeadKey)))) 0 4 =
      some 0xd31a8d34 := by decide +kernel

theorem test_cpDec :
    outAt (exec (.cpDec true) (withArgs 0 0 4 (put 0 (hex 4 0xd31a8d34) (stream .cp .text cpStart aeadKey)))) 0 4 =
      some 0x4c616469 := by decide +kernel

/-- 46_poly1305_aead.md R297: empty AAD and empty text. -/
theorem test_cpTag :
    outAt (exec .cpTag (stream .cp .aad cpStart aeadKey)) 0 16 = some 0xa0784d7a4716f3feb4f64e7f4b39bf04 := by
  decide +kernel

theorem test_cpVerify :
    after (fun t => (t.errc, t.phase)) (exec .cpVerify (put 0 (hex 16 0xa0784d7a4716f3feb4f64e7f4b39bf04)
      (stream .cp .fin cpStart aeadKey))) = some (.none, .done) := by decide +kernel

theorem test_cpVerify_auth :
    after (fun t => (t.errc, t.phase)) (exec .cpVerify (put 0 (hex 16 0xa0784d7a4716f3feb4f64e7f4b39bf05)
      (stream .cp .fin cpStart aeadKey))) = some (.auth, .done) := by decide +kernel

theorem test_cpOpen :
    after (fun t => (t.errc, t.outlen)) (exec (.cpOpen false) (put 0 (hex 16 0xa0784d7a4716f3feb4f64e7f4b39bf04) aeadKey)) =
      some (.none, 0) := by decide +kernel

theorem test_cpOpen_auth :
    after (fun t => (t.errc, t.phase)) (exec (.cpOpen false) (put 0 (zeros 16) aeadKey)) = some (.auth, .aad) := by
  decide +kernel

/-- 95_test_vectors.md section 3.1: STATUS after an illegal word from reset. -/
theorem test_illegalWord : statusAfter (step (State.reset.withFetchWord 32 0x00000004)) = some 0x00000012 := by decide

/-- 20_memory.md R75: a 32-bit read of DMEM has the byte at the lowest offset in bits 7:0. -/
theorem test_littleEndianRead : hostRead (put 4 (ramp 1 4) State.reset) 32 0x10004 = .ok 0x04030201 := by decide

/-- 20_memory.md R73: a byte access to a register is not legal. -/
theorem test_busAccess : hostRead State.reset 8 0x004 = .error .busAccess := by decide

/-- 10_state.md section 2: A_DST is at 0x014. -/
theorem test_argDstOffset :
    (hostWrite State.reset 32 0x014 7).toOption.map State.args = some { ArgRegs.reset with dst := 7 } := by decide

/-- 70_reset_and_hazards.md R370: with BUSY = 1 an 8-bit STATUS read is a hazard (and not legal by its width either,
log entry 17). -/
theorem test_busyHazard :
    step { State.reset with busy := true, inputs := [.read 8 0x004] } = .fault .busyHazard := rfl

/-- 70_reset_and_hazards.md R374: a run may end with a CMD write made with BUSY = 0. -/
theorem test_runEnded_cmdWrite :
    after (fun t => decide t.runEnded) (step { State.reset with inputs := [.write 32 0x008 0] }) = some true := rfl

/-- 70_reset_and_hazards.md R374: a run may not end with a STATUS read that returns BUSY = 1, nor does the engine's
transition after it end the run. -/
theorem test_runEnded_poll :
    after (fun t => decide t.runEnded)
      (step { State.reset with busy := true, pollsLeft := 1, inputs := [.read 32 0x004] }) = some false ∧
    after (fun t => decide t.runEnded) (step { State.reset with busy := true, lastAccess := .busy1 }) = some false :=
  ⟨rfl, rfl⟩

/-- 30_encoding.md R109, 95_test_vectors.md section 3.4. -/
theorem test_assemble : assemble "CHACHA_INIT" [.x] = some 0x00000422 ∧ assemble "GCM_OPEN" [.tl 16] = some 0x000F0057 := by
  decide

/-! ## Witnesses: states that meet the hypotheses of each clause of the statements, at the boundary of each range. -/

/-- 64 zero bytes at 0 and 16 zero bytes at the top of DMEM. -/
def filled (s : State) : State := put 0xFFF0 (zeros 16) (put 0 (zeros 64) s)

def chachaStream (k : Nat) : State := stream .chacha .aad { Context.reset with kidx := k } State.reset
def ctrStream (k : Nat) : State := stream .ctr .aad { Context.reset with cw := 1, kidx := k } aesReady
def cbcStream (p : Phase) : State := stream .cbc p Context.reset aesReady
def gcmStream (p : Phase) (lena lenc : Nat) : State :=
  stream .gcm p { Context.reset with lena := lena, lenc := lenc } aesReady
def cpStream (p : Phase) (lena k : Nat) : State :=
  stream .cp p { Context.reset with lena := lena, kidx := k, lenc := k - 64 } State.reset

/-- Bit 11 is outside the fields of every opcode: an illegal word for each mask of the opcode map. -/
theorem witness_IllegalOutside :
    ((0x823#32).toNat % 256 = 0x23 ∧ (0x823#32 &&& 0xFFFFFFFF#32).toNat ≠ 0x23) ∧
    ((0x802#32).toNat % 256 = 0x02 ∧ (0x802#32 &&& 0xFFFFCFFF#32).toNat ≠ 0x02) ∧
    ((0x822#32).toNat % 256 = 0x22 ∧ (0x822#32 &&& 0xFFFFFBFF#32).toNat ≠ 0x22) ∧
    ((0x830#32).toNat % 256 = 0x30 ∧ (0x830#32 &&& 0x00FFFFFF#32).toNat ≠ 0x30) ∧
    ((0x841#32).toNat % 256 = 0x41 ∧ (0x841#32 &&& 0xFFFFFCFF#32).toNat ≠ 0x41) ∧
    ((0x852#32).toNat % 256 = 0x52 ∧ (0x852#32 &&& 0xFFFFFEFF#32).toNat ≠ 0x52) ∧
    ((0x855#32).toNat % 256 = 0x55 ∧ (0x855#32 &&& 0xFFF0FFFF#32).toNat ≠ 0x55) := by
  decide

theorem witness_KeyldRule :
    (∃ s : State, ¬ s.inBounds s.args.src 16) ∧ (∃ s : State, ¬ s.inBounds s.args.src 24) ∧
    (∃ s : State, ¬ s.inBounds s.args.src 32) ∧
    (∃ s : State, s.inBounds s.args.src 16 ∧ s.Unwritten s.args.src 16) ∧
    (∃ s : State, s.inBounds s.args.src 16 ∧ s.Holds s.args.src 16 (zeros 16)) ∧
    (∃ s : State, s.inBounds s.args.src 24 ∧ s.Holds s.args.src 24 (zeros 24)) ∧
    (∃ s : State, s.inBounds s.args.src 32 ∧ s.Holds s.args.src 32 (zeros 32)) :=
  ⟨⟨withArgs 0xFFF1 0 0 State.reset, by decide⟩, ⟨withArgs 0xFFE9 0 0 State.reset, by decide⟩,
    ⟨withArgs 0xFFE1 0 0 State.reset, by decide⟩, ⟨withArgs 0xFFF0 0 0 State.reset, by decide⟩,
    ⟨withArgs 0xFFF0 0 0 (filled State.reset), by decide⟩, ⟨filled State.reset, by decide⟩,
    ⟨filled State.reset, by decide⟩⟩

theorem witness_NonceldRule :
    (∃ s : State, 32 < s.args.len.toNat) ∧
    (∃ s : State, s.args.len.toNat ≤ 32 ∧ ¬ s.inBounds s.args.src s.args.len.toNat) ∧
    (∃ s : State, s.args.len.toNat ≤ 32 ∧ s.inBounds s.args.src s.args.len.toNat ∧
      s.Unwritten s.args.src s.args.len.toNat) ∧
    (∃ s : State, s.args.len.toNat ≤ 32 ∧ s.inBounds s.args.src s.args.len.toNat ∧
      s.Holds s.args.src s.args.len.toNat (zeros 32)) ∧
    (∃ s : State, s.args.len.toNat ≤ 32 ∧ s.inBounds s.args.src s.args.len.toNat ∧
      s.Holds s.args.src s.args.len.toNat []) :=
  ⟨⟨withArgs 0 0 33 State.reset, by decide⟩, ⟨withArgs 0xFFE1 0 32 State.reset, by decide⟩,
    ⟨withArgs 0xFFE0 0 32 State.reset, by decide⟩, ⟨withArgs 0 0 32 (filled State.reset), by decide⟩,
    ⟨withArgs 0xFFFFFFFF 0 0 State.reset, by decide⟩⟩

theorem witness_AesKeyexpRule :
    (∃ s : State, s.klen = .none) ∧ (∃ s : State, s.klen = .k16) ∧ (∃ s : State, s.klen = .k24) ∧
    (∃ s : State, s.klen = .k32) :=
  ⟨⟨State.reset, rfl⟩, ⟨aesReady, rfl⟩, ⟨{ State.reset with klen := .k24 }, rfl⟩, ⟨key32 [], rfl⟩⟩

theorem witness_AesBlockRules :
    (∃ s : State, s.ksv = false) ∧
    (∃ s : State, s.ksv = true ∧ ¬ (s.inBounds s.args.src 16 ∧ s.inBounds s.args.dst 16)) ∧
    (∃ s : State, s.ksv = true ∧ s.inBounds s.args.src 16 ∧ s.inBounds s.args.dst 16 ∧ s.Unwritten s.args.src 16) ∧
    (∃ s : State, s.ksv = true ∧ s.inBounds s.args.src 16 ∧ s.inBounds s.args.dst 16 ∧
      s.Holds s.args.src 16 (zeros 16)) :=
  ⟨⟨State.reset, rfl⟩, ⟨withArgs 0xFFF0 0xFFF1 0 aesReady, by decide⟩, ⟨withArgs 0xFFF0 0xFFF0 0 aesReady, by decide⟩,
    ⟨withArgs 0xFFF0 0xFFF0 0 (filled aesReady), by decide⟩⟩

theorem witness_AesDecryptInvertsEncrypt : ∃ b : Bytes, b.length = 16 := ⟨zeros 16, rfl⟩

theorem witness_ChachaBlkRule :
    (∃ s : State, s.klen ≠ .k32) ∧ (∃ s : State, s.klen = .k32 ∧ s.nlen.val ≠ 12) ∧
    (∃ s : State, s.klen = .k32 ∧ s.nlen.val = 12 ∧ ¬ s.inBounds s.args.dst 64) ∧
    (∃ s : State, s.klen = .k32 ∧ s.nlen.val = 12 ∧ s.inBounds s.args.dst 64) :=
  ⟨⟨aesReady, by decide⟩, ⟨nonce (zeros 13) (key32 []), by decide⟩,
    ⟨withArgs 0 0xFFC1 0 (nonce (zeros 12) (key32 [])), by decide⟩,
    ⟨withArgs 0 0xFFC0 0 (nonce (zeros 12) (key32 [])), by decide⟩⟩

theorem witness_HchachaRule :
    (∃ s : State, s.klen ≠ .k32) ∧
    (∃ s : State, s.klen = .k32 ∧ ¬ (s.inBounds s.args.src 16 ∧ s.inBounds s.args.dst 32)) ∧
    (∃ s : State, s.klen = .k32 ∧ s.inBounds s.args.src 16 ∧ s.inBounds s.args.dst 32 ∧
      s.Unwritten s.args.src 16) ∧
    (∃ s : State, s.klen = .k32 ∧ s.inBounds s.args.src 16 ∧ s.inBounds s.args.dst 32 ∧
      s.Holds s.args.src 16 (zeros 16)) :=
  ⟨⟨aesReady, by decide⟩, ⟨withArgs 0xFFF0 0xFFE1 0 (key32 []), by decide⟩,
    ⟨withArgs 0xFFF0 0xFFE0 0 (key32 []), by decide⟩, ⟨withArgs 0xFFF0 0xFFE0 0 (filled (key32 [])), by decide⟩⟩

theorem witness_ChachaInitRule :
    (∃ s : State, s.klen ≠ .k32) ∧ (∃ s : State, s.klen = .k32 ∧ s.nlen.val ≠ 12) ∧
    (∃ s : State, s.klen = .k32 ∧ s.nlen.val ≠ 24) ∧
    (∃ s : State, s.klen = .k32 ∧ s.nlen.val = 12 ∧ 2 ^ 38 < 64 * s.args.aux0.toNat + s.args.aux1.toNat) ∧
    (∃ s : State, s.klen = .k32 ∧ s.nlen.val = 24 ∧ 2 ^ 38 < 64 * s.args.aux0.toNat + s.args.aux1.toNat) ∧
    (∃ s : State, s.klen = .k32 ∧ s.nlen.val = 12 ∧ 64 * s.args.aux0.toNat + s.args.aux1.toNat ≤ 2 ^ 38) ∧
    (∃ s : State, s.klen = .k32 ∧ s.nlen.val = 24 ∧ 64 * s.args.aux0.toNat + s.args.aux1.toNat ≤ 2 ^ 38) :=
  ⟨⟨State.reset, by decide⟩, ⟨nonce (zeros 24) (key32 []), by decide⟩, ⟨nonce (zeros 12) (key32 []), by decide⟩,
    ⟨withAux 0xFFFFFFFF 65 (nonce (zeros 12) (key32 [])), by decide⟩,
    ⟨withAux 0xFFFFFFFF 65 (nonce (zeros 24) (key32 [])), by decide⟩,
    ⟨withAux 0xFFFFFFFF 64 (nonce (zeros 12) (key32 [])), by decide⟩,
    ⟨withAux 0xFFFFFFFF 64 (nonce (zeros 24) (key32 [])), by decide⟩⟩

theorem witness_ChachaXorRule :
    (∃ s : State, s.mode ≠ .chacha) ∧
    (∃ s : State, s.mode = .chacha ∧
      ¬ (s.inBounds s.args.src s.args.len.toNat ∧ s.inBounds s.args.dst s.args.len.toNat)) ∧
    (∃ s : State, s.mode = .chacha ∧ s.inBounds s.args.src s.args.len.toNat ∧
      s.inBounds s.args.dst s.args.len.toNat ∧ 2 ^ 38 < s.ctx.kidx + s.args.len.toNat) ∧
    (∃ s : State, s.mode = .chacha ∧ s.inBounds s.args.src s.args.len.toNat ∧
      s.inBounds s.args.dst s.args.len.toNat ∧ s.ctx.kidx + s.args.len.toNat ≤ 2 ^ 38 ∧
      s.Unwritten s.args.src s.args.len.toNat) ∧
    (∃ s : State, s.mode = .chacha ∧ s.inBounds s.args.src s.args.len.toNat ∧
      s.inBounds s.args.dst s.args.len.toNat ∧ s.ctx.kidx + s.args.len.toNat ≤ 2 ^ 38 ∧
      s.Holds s.args.src s.args.len.toNat (zeros 16)) :=
  ⟨⟨State.reset, by decide⟩, ⟨withArgs 0 0xFFF1 16 (chachaStream 0), by decide⟩,
    ⟨withArgs 0 0xFFF0 16 (chachaStream (2 ^ 38 - 15)), by decide⟩,
    ⟨withArgs 0 0xFFF0 16 (chachaStream (2 ^ 38 - 16)), by decide⟩,
    ⟨withArgs 0xFFF0 0xFFF0 16 (filled (chachaStream (2 ^ 38 - 16))), by decide⟩⟩

/-- In place, and with A.DST inside reach below A.SRC. -/
theorem witness_ChachaXorChunksAgree :
    (∃ t : State, exec .chachaXor
      { filled (chachaStream 60) with
        args := { (filled (chachaStream 60)).args with src := 0, dst := 0, len := BitVec.ofNat 32 (3 + 5) } } =
      .next t ∧ t.errc = .none) ∧
    (∃ t : State, exec .chachaXor
      { filled (chachaStream 60) with
        args := { (filled (chachaStream 60)).args with src := 4, dst := 0, len := BitVec.ofNat 32 (3 + 5) } } =
      .next t ∧ t.errc = .none) ∧ (0 : U32).toNat ≤ (4 : U32).toNat := ⟨⟨_, rfl, rfl⟩, ⟨_, rfl, rfl⟩, by decide⟩

theorem witness_CtrInitRule :
    (∃ s : State, s.ksv = false) ∧ (∃ s : State, s.ksv = true ∧ s.nlen.val ≠ 16) ∧
    (∃ (s : State) (cw : Nat), s.ksv = true ∧ s.nlen.val = 16 ∧ cw = 129 ∧ ¬ (1 ≤ cw ∧ cw ≤ 128)) ∧
    (∃ s : State, s.ksv = true ∧ s.nlen.val = 16 ∧
      16 * (2 ^ 8 - be (slice s.nonce.toList 0 16) % 2 ^ 8) < 16 * s.args.aux0.toNat + s.args.aux1.toNat) ∧
    (∃ s : State, s.ksv = true ∧ s.nlen.val = 16 ∧
      16 * s.args.aux0.toNat + s.args.aux1.toNat ≤ 16 * (2 ^ 8 - be (slice s.nonce.toList 0 16) % 2 ^ 8)) :=
  ⟨⟨State.reset, rfl⟩, ⟨nonce (zeros 12) aesReady, by decide⟩, ⟨nonce (zeros 16) aesReady, 129, by decide⟩,
    ⟨withAux 1 1 (nonce (ramp 0xf0 16) aesReady), by decide +kernel⟩,
    ⟨withAux 1 0 (nonce (ramp 0xf0 16) aesReady), by decide +kernel⟩⟩

/-- With CTR0 = 0 and CW = 1, LIM is 32. -/
theorem witness_CtrXorRule :
    (∃ s : State, s.mode ≠ .ctr) ∧
    (∃ s : State, s.mode = .ctr ∧
      ¬ (s.inBounds s.args.src s.args.len.toNat ∧ s.inBounds s.args.dst s.args.len.toNat)) ∧
    (∃ s : State, s.mode = .ctr ∧ s.inBounds s.args.src s.args.len.toNat ∧
      s.inBounds s.args.dst s.args.len.toNat ∧
      16 * (2 ^ s.ctx.cw.toNat - be s.ctx.ctr0.toList % 2 ^ s.ctx.cw.toNat) < s.ctx.kidx + s.args.len.toNat) ∧
    (∃ s : State, s.mode = .ctr ∧ s.inBounds s.args.src s.args.len.toNat ∧
      s.inBounds s.args.dst s.args.len.toNat ∧
      s.ctx.kidx + s.args.len.toNat ≤ 16 * (2 ^ s.ctx.cw.toNat - be s.ctx.ctr0.toList % 2 ^ s.ctx.cw.toNat) ∧
      s.Unwritten s.args.src s.args.len.toNat) ∧
    (∃ s : State, s.mode = .ctr ∧ s.inBounds s.args.src s.args.len.toNat ∧
      s.inBounds s.args.dst s.args.len.toNat ∧
      s.ctx.kidx + s.args.len.toNat ≤ 16 * (2 ^ s.ctx.cw.toNat - be s.ctx.ctr0.toList % 2 ^ s.ctx.cw.toNat) ∧
      s.Holds s.args.src s.args.len.toNat (zeros 16)) :=
  ⟨⟨State.reset, by decide⟩, ⟨withArgs 0xFFF1 0 16 (ctrStream 0), by decide⟩,
    ⟨withArgs 0xFFF0 0 16 (ctrStream 17), by decide +kernel⟩, ⟨withArgs 0xFFF0 0 16 (ctrStream 16), by decide +kernel⟩,
    ⟨withArgs 0xFFF0 0 16 (filled (ctrStream 16)), by decide +kernel⟩⟩

theorem witness_CtrBlocksNeverWrap :
    be (hex 16 0xFE) % 2 ^ 8 + 1 < 2 ^ 8 ∧ (hex 16 0xFE).length = 16 ∧
    ctrBlock (hex 16 0xFE) 8 1 = ctrBlock (hex 16 0xFE) 8 1 := by decide +kernel

/-- Disjoint ranges, and with A.DST inside reach below A.SRC. -/
theorem witness_CtrXorChunksAgree :
    (∃ t : State, exec .ctrXor
      { filled (ctrStream 10) with
        args := { (filled (ctrStream 10)).args with src := 0, dst := 32, len := BitVec.ofNat 32 (6 + 16) } } =
      .next t ∧ t.errc = .none) ∧ (0 : U32).toNat + (6 + 16) ≤ (32 : U32).toNat ∧
    (∃ t : State, exec .ctrXor
      { filled (ctrStream 10) with
        args := { (filled (ctrStream 10)).args with src := 2, dst := 1, len := BitVec.ofNat 32 (6 + 16) } } =
      .next t ∧ t.errc = .none) ∧ (1 : U32).toNat ≤ (2 : U32).toNat :=
  ⟨⟨_, rfl, rfl⟩, by decide, ⟨_, rfl, rfl⟩, by decide⟩

theorem witness_CbcInitRule :
    (∃ s : State, s.ksv = false) ∧ (∃ s : State, s.ksv = true ∧ s.nlen.val ≠ 16) ∧
    (∃ s : State, s.ksv = true ∧ s.nlen.val = 16) :=
  ⟨⟨State.reset, rfl⟩, ⟨nonce (zeros 17) aesReady, by decide⟩, ⟨nonce (zeros 16) aesReady, by decide⟩⟩

theorem witness_CbcEncRule :
    (∃ s : State, ¬ (s.mode = .cbc ∧ s.phase ≠ .done)) ∧
    (∃ s : State, s.mode = .cbc ∧ s.phase ≠ .done ∧ s.args.len.toNat % 16 ≠ 0) ∧
    (∃ s : State, s.mode = .cbc ∧ s.phase ≠ .done ∧ s.args.len.toNat = 15 ∧
      ¬ (s.inBounds s.args.src 15 ∧ s.inBounds s.args.dst 16)) ∧
    (∃ s : State, s.mode = .cbc ∧ s.phase ≠ .done ∧ s.args.len.toNat = 16 ∧ s.inBounds s.args.src 16 ∧
      s.inBounds s.args.dst 16 ∧ s.Unwritten s.args.src 16) ∧
    (∃ s : State, s.mode = .cbc ∧ s.phase ≠ .done ∧ s.args.len.toNat = 16 ∧ s.inBounds s.args.src 16 ∧
      s.inBounds s.args.dst 32 ∧ s.Holds s.args.src 16 (zeros 16)) ∧
    (∃ s : State, s.mode = .cbc ∧ s.phase ≠ .done ∧ s.args.len.toNat = 0 ∧ s.inBounds s.args.src 0 ∧
      s.inBounds s.args.dst 0 ∧ s.Holds s.args.src 0 []) :=
  ⟨⟨cbcStream .done, by decide⟩, ⟨withArgs 0 0 15 (cbcStream .aad), by decide⟩,
    ⟨withArgs 0 0xFFF1 15 (cbcStream .aad), by decide⟩, ⟨withArgs 0xFFF0 0xFFF0 16 (cbcStream .aad), by decide⟩,
    ⟨withArgs 0xFFF0 0xFFE0 16 (filled (cbcStream .aad)), by decide⟩,
    ⟨withArgs 0xFFFFFFFF 0xFFFFFFFF 0 (cbcStream .aad), by decide⟩⟩

/-- The two outcomes of the padding check are `test_cbcDec_pad` and `test_cbcDec_badPad`. -/
theorem witness_CbcDecRule :
    (∃ s : State, ¬ (s.mode = .cbc ∧ s.phase ≠ .done)) ∧
    (∃ s : State, s.mode = .cbc ∧ s.phase ≠ .done ∧ s.args.len.toNat % 16 ≠ 0) ∧
    (∃ s : State, s.mode = .cbc ∧ s.phase ≠ .done ∧ s.args.len.toNat = 0) ∧
    (∃ s : State, s.mode = .cbc ∧ s.phase ≠ .done ∧ s.args.len.toNat = 16 ∧
      ¬ (s.inBounds s.args.src 16 ∧ s.inBounds s.args.dst 16)) ∧
    (∃ s : State, s.mode = .cbc ∧ s.phase ≠ .done ∧ s.args.len.toNat = 16 ∧ s.inBounds s.args.src 16 ∧
      s.inBounds s.args.dst 16 ∧ s.Unwritten s.args.src 16) ∧
    (∃ s : State, s.mode = .cbc ∧ s.phase ≠ .done ∧ s.args.len.toNat = 16 ∧ s.inBounds s.args.src 16 ∧
      s.inBounds s.args.dst 16 ∧ s.Holds s.args.src 16 (zeros 16)) ∧
    (∃ s : State, s.mode = .cbc ∧ s.phase ≠ .done ∧ s.args.len.toNat = 0 ∧ s.inBounds s.args.src 0 ∧
      s.inBounds s.args.dst 0 ∧ s.Holds s.args.src 0 []) :=
  ⟨⟨State.reset, by decide⟩, ⟨withArgs 0 0 17 (cbcStream .aad), by decide⟩, ⟨cbcStream .aad, by decide⟩,
    ⟨withArgs 0xFFF1 0 16 (cbcStream .aad), by decide⟩, ⟨withArgs 0xFFF0 0xFFF0 16 (cbcStream .aad), by decide⟩,
    ⟨withArgs 0xFFF0 0xFFF0 16 (filled (cbcStream .aad)), by decide⟩, ⟨cbcStream .aad, by decide⟩⟩

theorem witness_Gf128MulRule :
    (∃ s : State, ¬ (s.inBounds s.args.src 16 ∧ s.inBounds s.args.aux0 16 ∧ s.inBounds s.args.dst 16)) ∧
    (∃ s : State, s.inBounds s.args.src 16 ∧ s.inBounds s.args.aux0 16 ∧ s.inBounds s.args.dst 16 ∧
      s.Unwritten s.args.aux0 16) ∧
    (∃ s : State, s.inBounds s.args.src 16 ∧ s.inBounds s.args.aux0 16 ∧ s.inBounds s.args.dst 16 ∧
      s.Holds s.args.src 16 (zeros 16) ∧ s.Holds s.args.aux0 16 (zeros 16)) :=
  ⟨⟨withAux 0xFFF1 0 State.reset, by decide⟩, ⟨withAux 0x40 0 (filled State.reset), by decide⟩,
    ⟨withAux 0xFFF0 0 (withArgs 0 0xFFF0 0 (filled State.reset)), by decide⟩⟩

theorem witness_GcmInitRule :
    (∃ s : State, s.ksv = false) ∧ (∃ s : State, s.ksv = true ∧ ¬ (4 ≤ s.nlen.val ∧ s.nlen.val ≤ 32)) ∧
    (∃ s : State, s.ksv = true ∧ s.nlen.val = 4) ∧ (∃ s : State, s.ksv = true ∧ s.nlen.val = 12) ∧
    (∃ s : State, s.ksv = true ∧ s.nlen.val = 32) :=
  ⟨⟨State.reset, rfl⟩, ⟨nonce (zeros 3) aesReady, by decide⟩, ⟨nonce (zeros 4) aesReady, by decide⟩,
    ⟨nonce (zeros 12) aesReady, by decide⟩, ⟨nonce (zeros 32) aesReady, by decide⟩⟩

theorem witness_GcmAadRule :
    (∃ s : State, ¬ (s.mode = .gcm ∧ s.phase = .aad)) ∧
    (∃ s : State, s.mode = .gcm ∧ s.phase = .aad ∧ s.args.len.toNat % 16 ≠ 0) ∧
    (∃ s : State, s.mode = .gcm ∧ s.phase = .aad ∧ s.args.len.toNat = 16 ∧ ¬ s.inBounds s.args.src 16) ∧
    (∃ s : State, s.mode = .gcm ∧ s.phase = .aad ∧ s.args.len.toNat = 16 ∧ s.inBounds s.args.src 16 ∧
      2 ^ 61 - 1 < s.ctx.lena + 16) ∧
    (∃ s : State, s.mode = .gcm ∧ s.phase = .aad ∧ s.args.len.toNat = 16 ∧ s.inBounds s.args.src 16 ∧
      s.ctx.lena + 16 ≤ 2 ^ 61 - 1 ∧ s.Unwritten s.args.src 16) ∧
    (∃ s : State, s.mode = .gcm ∧ s.phase = .aad ∧ s.args.len.toNat = 16 ∧ s.inBounds s.args.src 16 ∧
      s.ctx.lena + 16 ≤ 2 ^ 61 - 1 ∧ s.Holds s.args.src 16 (zeros 16)) :=
  ⟨⟨gcmStream .text 0 0, by decide⟩, ⟨withArgs 0 0 1 (gcmStream .aad 0 0), by decide⟩,
    ⟨withArgs 0xFFF1 0 16 (gcmStream .aad 0 0), by decide⟩,
    ⟨withArgs 0xFFF0 0 16 (gcmStream .aad (2 ^ 61 - 16) 0), by decide⟩,
    ⟨withArgs 0xFFF0 0 16 (gcmStream .aad (2 ^ 61 - 17) 0), by decide⟩,
    ⟨withArgs 0xFFF0 0 16 (filled (gcmStream .aad (2 ^ 61 - 17) 0)), by decide⟩⟩

theorem witness_GcmTextRules :
    (∃ s : State, ¬ (s.mode = .gcm ∧ (s.phase = .aad ∨ s.phase = .text))) ∧
    (∃ s : State, s.mode = .gcm ∧ s.phase = .text ∧ s.args.len.toNat % 16 ≠ 0) ∧
    (∃ s : State, s.mode = .gcm ∧ s.phase = .text ∧ s.args.len.toNat = 16 ∧
      ¬ (s.inBounds s.args.src 16 ∧ s.inBounds s.args.dst 16)) ∧
    (∃ s : State, s.mode = .gcm ∧ s.phase = .aad ∧ s.args.len.toNat = 16 ∧ s.inBounds s.args.src 16 ∧
      s.inBounds s.args.dst 16 ∧ 2 ^ 36 - 32 < s.ctx.lenc + 16) ∧
    (∃ s : State, s.mode = .gcm ∧ s.phase = .text ∧ s.args.len.toNat = 16 ∧ s.inBounds s.args.src 16 ∧
      s.inBounds s.args.dst 16 ∧ s.ctx.lenc + 16 ≤ 2 ^ 36 - 32 ∧ s.Unwritten s.args.src 16) ∧
    (∃ s : State, s.mode = .gcm ∧ s.phase = .text ∧ s.args.len.toNat = 16 ∧ s.inBounds s.args.src 16 ∧
      s.inBounds s.args.dst 16 ∧ s.ctx.lenc + 16 ≤ 2 ^ 36 - 32 ∧ s.Holds s.args.src 16 (zeros 16)) :=
  ⟨⟨gcmStream .fin 0 0, by decide⟩, ⟨withArgs 0 0 17 (gcmStream .text 0 0), by decide⟩,
    ⟨withArgs 0 0xFFF1 16 (gcmStream .text 0 0), by decide⟩,
    ⟨withArgs 0 0xFFF0 16 (gcmStream .aad 0 (2 ^ 36 - 47)), by decide⟩,
    ⟨withArgs 0 0xFFF0 16 (gcmStream .text 0 (2 ^ 36 - 48)), by decide⟩,
    ⟨withArgs 0 0xFFF0 16 (filled (gcmStream .text 0 (2 ^ 36 - 48))), by decide⟩⟩

/-- The two outcomes of the comparison are `test_gcmVerify` and `test_gcmVerify_auth`. -/
theorem witness_GcmTagRule_GcmVerifyRule :
    (∃ s : State, ¬ (s.mode = .gcm ∧ s.phase ≠ .done)) ∧
    (∃ (s : State) (t : Nat), s.mode = .gcm ∧ s.phase ≠ .done ∧ t = 11 ∧ t ∉ [4, 8, 12, 13, 14, 15, 16]) ∧
    (∃ s : State, s.mode = .gcm ∧ s.phase ≠ .done ∧ ¬ s.inBounds s.args.dst 16 ∧ ¬ s.inBounds s.args.tag 16) ∧
    (∃ s : State, s.mode = .gcm ∧ s.phase ≠ .done ∧ s.inBounds s.args.dst 16 ∧ s.inBounds s.args.tag 16 ∧
      s.Unwritten s.args.tag 16) ∧
    (∃ s : State, s.mode = .gcm ∧ s.phase ≠ .done ∧ s.inBounds s.args.tag 4 ∧ s.Holds s.args.tag 4 (zeros 4)) :=
  ⟨⟨gcmStream .done 0 0, by decide⟩, ⟨gcmStream .fin 0 0, 11, by decide⟩,
    ⟨withTag 0xFFF1 (withArgs 0 0xFFF1 0 (gcmStream .text 0 0)), by decide⟩,
    ⟨withTag 0xFFF0 (withArgs 0 0xFFF0 0 (gcmStream .aad 0 0)), by decide⟩,
    ⟨withTag 0xFFFC (filled (gcmStream .aad 0 0)), by decide⟩⟩

/-- The two outcomes of the comparison are `test_gcmOpen` and `test_gcmOpen_auth`. -/
theorem witness_GcmOpenRule :
    (∃ s : State, s.ksv = false) ∧ (∃ s : State, s.ksv = true ∧ ¬ (4 ≤ s.nlen.val ∧ s.nlen.val ≤ 32)) ∧
    (∃ (s : State) (t : Nat), s.ksv = true ∧ s.nlen.val = 12 ∧ t = 7 ∧ t ∉ [4, 8, 12, 13, 14, 15, 16]) ∧
    (∃ s : State, s.ksv = true ∧ s.nlen.val = 4 ∧ ¬ s.inBounds s.args.tag 16) ∧
    (∃ s : State, s.ksv = true ∧ s.nlen.val = 32 ∧ s.inBounds s.args.aad 0 ∧ s.inBounds s.args.src 0 ∧
      s.inBounds s.args.tag 16 ∧ s.inBounds s.args.dst 0 ∧ s.Unwritten s.args.tag 16) ∧
    (∃ s : State, s.ksv = true ∧ s.nlen.val = 32 ∧ s.args.aadlen.toNat = 16 ∧ s.args.len.toNat = 32 ∧
      s.inBounds s.args.aad 16 ∧ s.inBounds s.args.src 32 ∧ s.inBounds s.args.tag 16 ∧ s.inBounds s.args.dst 32 ∧
      s.Holds s.args.aad 16 (zeros 16) ∧ s.Holds s.args.src 32 (zeros 32) ∧ s.Holds s.args.tag 16 (zeros 16)) :=
  ⟨⟨State.reset, rfl⟩, ⟨nonce (zeros 3) aesReady, by decide⟩, ⟨nonce (zeros 12) aesReady, 7, by decide⟩,
    ⟨withTag 0xFFF1 (nonce (zeros 4) aesReady), by decide⟩, ⟨withTag 0xFFF0 (nonce (zeros 32) aesReady), by decide⟩,
    ⟨withTag 0xFFF0 (withAad 0 16 (withArgs 0 0xFFE0 32 (filled (nonce (zeros 32) aesReady)))), by decide⟩⟩

theorem witness_GcmOpenTagMatchesStream :
    ∃ s1 s2 s3 : State,
      exec .gcmInit (filled (nonce (zeros 12) aesReady)) = .next s1 ∧ s1.errc = .none ∧
      exec (.gcmAad true) { s1 with args := { s1.args with src := 0, len := 5 } } = .next s2 ∧ s2.errc = .none ∧
      exec (.gcmEnc true) { s2 with args := { s2.args with src := 0, len := 0, dst := 32 } } = .next s3 ∧
      s3.errc = .none ∧ s1.Holds 0 (5 : U32).toNat (zeros 5) ∧ s2.Holds 0 (0 : U32).toNat [] ∧
      s3.Holds 32 (0 : U32).toNat [] := ⟨_, _, _, rfl, rfl, rfl, rfl, rfl, rfl, rfl, rfl, rfl⟩

theorem witness_Poly1305Rule :
    (∃ s : State, ¬ (s.inBounds s.args.aux0 32 ∧ s.inBounds s.args.src s.args.len.toNat ∧
      s.inBounds s.args.dst 16)) ∧
    (∃ s : State, s.inBounds s.args.aux0 32 ∧ s.inBounds s.args.src s.args.len.toNat ∧ s.inBounds s.args.dst 16 ∧
      s.Unwritten s.args.aux0 32) ∧
    (∃ s : State, s.inBounds s.args.aux0 32 ∧ s.inBounds s.args.src s.args.len.toNat ∧ s.inBounds s.args.dst 16 ∧
      s.Holds s.args.aux0 32 (zeros 32) ∧ s.Holds s.args.src s.args.len.toNat (zeros 16)) :=
  ⟨⟨withAux 0xFFE1 0 State.reset, by decide⟩, ⟨withAux 0xFFE0 0 State.reset, by decide⟩,
    ⟨withAux 0 0 (withArgs 0xFFF0 0xFFF0 16 (filled State.reset)), by decide⟩⟩

theorem witness_CpInitRule :
    (∃ s : State, s.klen ≠ .k32) ∧ (∃ s : State, s.klen = .k32 ∧ s.nlen.val ≠ 12) ∧
    (∃ s : State, s.klen = .k32 ∧ s.nlen.val ≠ 24) ∧ (∃ s : State, s.klen = .k32 ∧ s.nlen.val = 12) ∧
    (∃ s : State, s.klen = .k32 ∧ s.nlen.val = 24) :=
  ⟨⟨aesReady, by decide⟩, ⟨nonce (zeros 24) (key32 []), by decide⟩, ⟨nonce (zeros 12) (key32 []), by decide⟩,
    ⟨nonce (zeros 12) (key32 []), by decide⟩, ⟨nonce (zeros 24) (key32 []), by decide⟩⟩

theorem witness_CpAadRule :
    (∃ s : State, ¬ (s.mode = .cp ∧ s.phase = .aad)) ∧
    (∃ s : State, s.mode = .cp ∧ s.phase = .aad ∧ s.args.len.toNat % 16 ≠ 0) ∧
    (∃ s : State, s.mode = .cp ∧ s.phase = .aad ∧ s.args.len.toNat = 16 ∧ ¬ s.inBounds s.args.src 16) ∧
    (∃ s : State, s.mode = .cp ∧ s.phase = .aad ∧ s.args.len.toNat = 16 ∧ s.inBounds s.args.src 16 ∧
      2 ^ 64 - 1 < s.ctx.lena + 16) ∧
    (∃ s : State, s.mode = .cp ∧ s.phase = .aad ∧ s.args.len.toNat = 16 ∧ s.inBounds s.args.src 16 ∧
      s.ctx.lena + 16 ≤ 2 ^ 64 - 1 ∧ s.Unwritten s.args.src 16) ∧
    (∃ s : State, s.mode = .cp ∧ s.phase = .aad ∧ s.args.len.toNat = 16 ∧ s.inBounds s.args.src 16 ∧
      s.ctx.lena + 16 ≤ 2 ^ 64 - 1 ∧ s.Holds s.args.src 16 (zeros 16)) :=
  ⟨⟨cpStream .text 0 64, by decide⟩, ⟨withArgs 0 0 1 (cpStream .aad 0 64), by decide⟩,
    ⟨withArgs 0xFFF1 0 16 (cpStream .aad 0 64), by decide⟩,
    ⟨withArgs 0xFFF0 0 16 (cpStream .aad (2 ^ 64 - 16) 64), by decide⟩,
    ⟨withArgs 0xFFF0 0 16 (cpStream .aad (2 ^ 64 - 17) 64), by decide⟩,
    ⟨withArgs 0xFFF0 0 16 (filled (cpStream .aad (2 ^ 64 - 17) 64)), by decide⟩⟩

theorem witness_CpTextRules :
    (∃ s : State, ¬ (s.mode = .cp ∧ (s.phase = .aad ∨ s.phase = .text))) ∧
    (∃ s : State, s.mode = .cp ∧ s.phase = .text ∧ s.args.len.toNat % 16 ≠ 0) ∧
    (∃ s : State, s.mode = .cp ∧ s.phase = .text ∧ s.args.len.toNat = 16 ∧
      ¬ (s.inBounds s.args.src 16 ∧ s.inBounds s.args.dst 16)) ∧
    (∃ s : State, s.mode = .cp ∧ s.phase = .aad ∧ s.args.len.toNat = 16 ∧ s.inBounds s.args.src 16 ∧
      s.inBounds s.args.dst 16 ∧ 2 ^ 38 < s.ctx.kidx + 16) ∧
    (∃ s : State, s.mode = .cp ∧ s.phase = .text ∧ s.args.len.toNat = 16 ∧ s.inBounds s.args.src 16 ∧
      s.inBounds s.args.dst 16 ∧ s.ctx.kidx + 16 ≤ 2 ^ 38 ∧ s.Unwritten s.args.src 16) ∧
    (∃ s : State, s.mode = .cp ∧ s.phase = .text ∧ s.args.len.toNat = 16 ∧ s.inBounds s.args.src 16 ∧
      s.inBounds s.args.dst 16 ∧ s.ctx.kidx + 16 ≤ 2 ^ 38 ∧ s.Holds s.args.src 16 (zeros 16)) :=
  ⟨⟨cpStream .fin 0 64, by decide⟩, ⟨withArgs 0 0 17 (cpStream .text 0 64), by decide⟩,
    ⟨withArgs 0 0xFFF1 16 (cpStream .text 0 64), by decide⟩,
    ⟨withArgs 0 0xFFF0 16 (cpStream .aad 0 (2 ^ 38 - 15)), by decide⟩,
    ⟨withArgs 0 0xFFF0 16 (cpStream .text 0 (2 ^ 38 - 16)), by decide⟩,
    ⟨withArgs 0 0xFFF0 16 (filled (cpStream .text 0 (2 ^ 38 - 16))), by decide⟩⟩

/-- The two outcomes of the comparison are `test_cpVerify` and `test_cpVerify_auth`. -/
theorem witness_CpTagRule_CpVerifyRule :
    (∃ s : State, ¬ (s.mode = .cp ∧ s.phase ≠ .done)) ∧
    (∃ s : State, s.mode = .cp ∧ s.phase ≠ .done ∧ ¬ s.inBounds s.args.dst 16 ∧ ¬ s.inBounds s.args.tag 16) ∧
    (∃ s : State, s.mode = .cp ∧ s.phase ≠ .done ∧ s.inBounds s.args.dst 16 ∧ s.inBounds s.args.tag 16 ∧
      s.Unwritten s.args.tag 16) ∧
    (∃ s : State, s.mode = .cp ∧ s.phase ≠ .done ∧ s.inBounds s.args.tag 16 ∧ s.Holds s.args.tag 16 (zeros 16)) :=
  ⟨⟨cpStream .done 0 64, by decide⟩, ⟨withTag 0xFFF1 (withArgs 0 0xFFF1 0 (cpStream .text 0 64)), by decide⟩,
    ⟨withTag 0xFFF0 (withArgs 0 0xFFF0 0 (cpStream .aad 0 64)), by decide⟩,
    ⟨withTag 0xFFF0 (filled (cpStream .fin 0 64)), by decide⟩⟩

/-- The two outcomes of the comparison are `test_cpOpen` and `test_cpOpen_auth`. -/
theorem witness_CpOpenRule :
    (∃ s : State, s.klen ≠ .k32) ∧ (∃ s : State, s.klen = .k32 ∧ s.nlen.val ≠ 12) ∧
    (∃ s : State, s.klen = .k32 ∧ s.nlen.val ≠ 24) ∧
    (∃ s : State, s.klen = .k32 ∧ s.nlen.val = 12 ∧ ¬ s.inBounds s.args.tag 16) ∧
    (∃ s : State, s.klen = .k32 ∧ s.nlen.val = 24 ∧ s.inBounds s.args.aad 0 ∧ s.inBounds s.args.src 0 ∧
      s.inBounds s.args.tag 16 ∧ s.inBounds s.args.dst 0 ∧ s.Unwritten s.args.tag 16) ∧
    (∃ s : State, s.klen = .k32 ∧ s.nlen.val = 24 ∧ s.args.aadlen.toNat = 16 ∧ s.args.len.toNat = 32 ∧
      s.inBounds s.args.aad 16 ∧ s.inBounds s.args.src 32 ∧ s.inBounds s.args.tag 16 ∧ s.inBounds s.args.dst 32 ∧
      s.Holds s.args.aad 16 (zeros 16) ∧ s.Holds s.args.src 32 (zeros 32) ∧ s.Holds s.args.tag 16 (zeros 16)) :=
  ⟨⟨aesReady, by decide⟩, ⟨nonce (zeros 24) (key32 []), by decide⟩, ⟨nonce (zeros 12) (key32 []), by decide⟩,
    ⟨withTag 0xFFF1 (nonce (zeros 12) (key32 [])), by decide⟩,
    ⟨withTag 0xFFF0 (nonce (zeros 24) (key32 [])), by decide⟩,
    ⟨withTag 0xFFF0 (withAad 0 16 (withArgs 0 0xFFE0 32 (filled (nonce (zeros 24) (key32 []))))), by decide⟩⟩

theorem witness_TagCompareIsBytewiseEquality : ∃ a b : Bytes, a.length = b.length ∧ a ≠ b ∧ a.length = 16 :=
  ⟨zeros 16, hex 16 1, by decide⟩

theorem witness_StepExecutesLatchedCommand :
    (∃ (s : State) (i : Instr), s.busy = true ∧ decode s.latch = .ok i ∧ i.wellFormed = true ∧ s.inputs = []) ∧
    (∃ (s : State) (i : Instr), s.busy = true ∧ decode s.latch = .ok i ∧ i.wellFormed = true ∧
      ∃ (e : Input) (rest : List Input), s.inputs = e :: rest ∧ e.readsStatus = true ∧ s.pollsLeft = 0) ∧
    (∃ s : State, s.busy = false ∧ s.inputs = []) ∧
    decodeTableWord 32 0x20000030 = some (.ctrInit 32) :=
  ⟨⟨State.reset.withFetchWord 32 2, .keyld 0, rfl, by decide, rfl, rfl⟩,
    ⟨{ State.reset.withFetchWord 32 2 with inputs := [.wait] }, .keyld 0, rfl, by decide, rfl, .wait, [], rfl, rfl, rfl⟩,
    ⟨State.reset, rfl, rfl⟩, by decide⟩

theorem witness_DecodeOfEncode : (Instr.ctrInit 255).wellFormed = true ∧ (Instr.gcmTag 15).wellFormed = true := by decide

theorem witness_EncodeOfDecode_DecodeMatchesOpcodeMap :
    decode 0xFF000030 = .ok (.ctrInit 255) ∧ 0xFF000030 &&& tableMask (.ctrInit 0) = tableMatch (.ctrInit 0) := by
  decide

theorem witness_IllegalWordsRaiseIllegal :
    (0x68#32).toNat % 256 = 0x68 ∧
    ((0x123#32).toNat % 256 = (tableMatch .chachaXor).toNat ∧ 0x123#32 &&& tableMask .chachaXor ≠ tableMatch .chachaXor) ∧
    (∃ s : State, s.busy = true ∧ s.inputs = [] ∧ s.latch = 0x68) ∧
    ∀ j : Instr, (0x68#32) &&& tableMask j ≠ tableMatch j := by
  refine ⟨by decide, by decide, ⟨State.reset.withFetchWord 32 0x68, rfl, rfl, by decide⟩, fun j => ?_⟩
  cases j <;> simp [tableMask, tableMatch]

/-- The other two forms of the conclusion are `test_cpVerify_auth` and `test_cbcDec_badPad`. -/
theorem witness_ErrorsChangeNothingElse :
    (∃ s : State, ∀ i : Instr, decode s.latch ≠ .ok i) ∧
    ∃ t : State, exec .aesEnc State.reset = .next t ∧ t.errc ≠ .none := by
  refine ⟨⟨State.reset.withFetchWord 32 4, fun i => ?_⟩, ⟨_, rfl, by decide⟩⟩
  rw [show decode (State.reset.withFetchWord 32 4).latch = .error .unassignedOp by decide]
  simp

theorem witness_CommandsKeepOtherRegisters :
    ∃ t : State, exec .cbcInit (nonce (zeros 16) aesReady) = .next t ∧ writesKey .cbcInit = false ∧
      writesSchedule .cbcInit = false ∧ writesKsv .cbcInit = false ∧ writesNonce .cbcInit = false ∧
      writesMode .aesKeyexp = false ∧ writesPhase .ctrXor = false := ⟨_, rfl, rfl, rfl, rfl, rfl, rfl, rfl⟩

theorem witness_CommandsStoreOnlyTheirRange :
    (∃ t : State, exec .nop State.reset = .next t ∧ storesToDmem .nop = false) ∧
    (∃ t : State, exec .aesEnc State.reset = .next t ∧ t.errc ≠ .none) ∧
    (∃ t : State, exec .aesEnc (withArgs 0xFFF0 0xFFF0 0 (filled aesReady)) = .next t ∧
      storesToDmem .aesEnc = true ∧ t.errc = .none) :=
  ⟨⟨_, rfl, rfl⟩, ⟨_, rfl, by decide⟩, ⟨_, rfl, rfl, rfl⟩⟩

theorem witness_PlatformResetRestoresReset :
    ∃ (s : State) (rest : List Input), s.busy = true ∧ s.inputs = .reset :: rest :=
  ⟨{ State.reset.withFetchWord 32 2 with inputs := [.reset] }, [], rfl, rfl⟩

theorem witness_StatusFieldsMirrorRegisters : State.reset.busy = false := rfl

theorem witness_BusyAccesses :
    (∃ s t : State, s.busy = true ∧ s.inputs = [.read 32 0x004] ∧ s.pollsLeft ≠ 0 ∧ step s = .next t) ∧
    (∃ s : State, s.busy = true ∧ s.inputs = [.read 8 0x004]) ∧
    (∃ s : State, s.busy = true ∧ s.inputs = [.write 32 0x008 0]) :=
  ⟨⟨{ State.reset with busy := true, inputs := [.read 32 0x004], pollsLeft := 1 }, _, rfl, rfl, by decide, rfl⟩,
    ⟨{ State.reset with busy := true, inputs := [.read 8 0x004] }, rfl, rfl⟩,
    ⟨{ State.reset with busy := true, inputs := [.write 32 0x008 0] }, rfl, rfl⟩⟩

theorem witness_CmdWriteIssuesCommand : ∃ s : State, s.busy = false ∧ s.inputs = [.write 32 0x008 0x2002] :=
  ⟨{ State.reset with inputs := [.write 32 0x008 0x2002] }, rfl, rfl⟩

theorem witness_RegisterWindowAccesses :
    State.reset.busy = false ∧ (∃ bits off : Nat, off < 0x10000 ∧ ¬ (bits = 32 ∧ off % 4 = 0)) ∧
    (∃ off : Nat, off < 0x10000 ∧ off % 4 = 0 ∧ 0x030 ≤ off) ∧
    (∃ off off' : Nat, off < 0x10000 ∧ off % 4 = 0 ∧ 0x010 ≤ off ∧ off < 0x030 ∧ off' % 4 = 0 ∧ 0x010 ≤ off' ∧
      off' < 0x030 ∧ off' ≠ off) ∧
    ∀ off ∈ [0x000, 0x004, 0x00C, 0x010, 0x014, 0x018, 0x01C, 0x020, 0x024, 0x028, 0x02C], off < 0x10000 :=
  ⟨rfl, ⟨32, 0xFFFE, by decide⟩, ⟨0x030, by decide⟩, ⟨0x02C, 0x010, by decide⟩, by decide⟩

/-- A DMEM of 4096 bytes, the smallest the parameter allows. -/
def smallDmem : State := { State.reset with cfg := { extraBlocks := 0 } }

theorem witness_DmemWindowAccesses :
    (∃ a bits : Nat, ¬ ((bits = 8 ∨ bits = 16 ∨ bits = 32) ∧ a % (bits / 8) = 0)) ∧
    (∃ (s : State) (a bits : Nat), bits = 32 ∧ a % (bits / 8) = 0 ∧ s.dmemSize ≤ a) ∧
    (∃ (s : State) (a bits : Nat), bits = 16 ∧ a % (bits / 8) = 0 ∧ a < s.dmemSize ∧
      s.dmem.read (a + 1) = none) ∧
    (∃ (s : State) (a bits : Nat), bits = 32 ∧ a % (bits / 8) = 0 ∧ a < s.dmemSize ∧
      ∀ k < bits / 8, s.dmem.read (a + k) = some (BitVec.ofNat 8 (1 + k))) ∧
    (∃ (s : State) (a bits : Nat), bits = 32 ∧ a % (bits / 8) = 0 ∧ a < s.dmemSize) :=
  ⟨⟨2, 32, by decide⟩, ⟨smallDmem, 4096, 32, by decide⟩, ⟨smallDmem, 4094, 16, by decide⟩,
    ⟨put 65532 (ramp 1 4) State.reset, 65532, 32, by decide⟩, ⟨State.reset, 65532, 32, by decide⟩⟩

theorem witness_HostAccessesLeaveEngine :
    State.reset.busy = false ∧ (∃ v : U32, hostRead State.reset 32 (0x000 : BitVec 17).toNat = .ok v) ∧
    hostRead State.reset 8 (0x1FFFF : BitVec 17).toNat = .error .unwrittenDmem ∧
    (∃ u : State, hostWrite State.reset 32 (0x010 : BitVec 17).toNat 5 = .ok u) ∧
    hostWrite State.reset 32 (0x1FFFE : BitVec 17).toNat 5 = .error .busAccess ∧
    (∃ t : State, step { State.reset with inputs := [.write 32 0x010 5] } = .next t) ∧
    (∃ t : State, step { State.reset with inputs := [.read 32 0x000] } = .next t) ∧
    (∃ t : State, step { State.reset with inputs := [.wait] } = .next t) ∧
    (∃ t : State, step { State.reset with inputs := [.write 32 0x008 0, .wait] } = .next t) :=
  ⟨rfl, ⟨_, rfl⟩, by decide, ⟨_, rfl⟩, if_pos (by decide), ⟨_, rfl⟩, ⟨_, rfl⟩, ⟨_, rfl⟩, ⟨_, rfl⟩⟩

/-- Two states with different keys that the host cannot tell apart. -/
theorem witness_HostReadsRevealNoSecret :
    SameVisible (key32 (zeros 32)) (key32 (ramp 1 32)) ∧ (key32 (zeros 32)).key ≠ (key32 (ramp 1 32)).key :=
  ⟨⟨rfl, rfl, rfl, rfl, rfl, rfl, rfl, rfl, rfl, rfl⟩, by decide⟩

theorem witness_PollingEnds :
    (∃ s : State, s.busy = true ∧ s.inputs = [.wait] ∧ s.pollsLeft = 3) ∧
    (∃ s : State, s.busy = true ∧ s.inputs = [.wait] ∧ s.pollsLeft = 0) :=
  ⟨⟨{ State.reset.withFetchWord 32 0 with inputs := [.wait], pollsLeft := 3 }, rfl, rfl, rfl⟩,
    ⟨{ State.reset.withFetchWord 32 0 with inputs := [.wait] }, rfl, rfl, rfl⟩⟩

theorem witness_StepKeepsDmemInv :
    DmemInv (filled State.reset) ∧ ∃ t : State, step ((filled aesReady).withFetchWord 32 0x11) = .next t :=
  ⟨⟨by decide, by decide⟩, ⟨_, rfl⟩⟩

theorem witness_StepKeepsKeyInv_StepKeepsStreamInv_StepKeepsDerivedKeyInv :
    DerivedKeyInv (nonce (ramp 1 12) (key32 (ramp 0 32))) ∧ StreamInv (cpStream .text 5 80) ∧
    ∃ t : State, step ((nonce (ramp 1 12) (key32 (ramp 0 32))).withFetchWord 32 0x61) = .next t :=
  ⟨⟨⟨by decide, by decide, by decide, by decide, by decide⟩, by decide, by decide⟩,
    ⟨by decide, by decide, by decide, by decide, by decide, by decide, by decide, by decide, by decide, by decide,
      by decide, by decide⟩, ⟨_, rfl⟩⟩

end Sys2Proof.Tests
end

namespace Sys2Proof.Machine
open Sys2Proof

/-! Proofs of the family 10_state.md: what every command and every step does to the key, nonce and stream registers,
and the invariants, the frame of a command, STATUS and the host's reads, CMD, and whose step it is. -/

/-! # The key, nonce and stream registers -/

/-- The two states agree on the registers that the invariants of 10_state.md R40 to R51 speak of: the key, schedule
and nonce registers, MODE, PHASE and the mode context. -/
structure SameRegs (s u : State) : Prop where
  key : s.key = u.key
  klen : s.klen = u.klen
  rk : s.rk = u.rk
  nr : s.nr = u.nr
  ksv : s.ksv = u.ksv
  nonce : s.nonce = u.nonce
  nlen : s.nlen = u.nlen
  mode : s.mode = u.mode
  phase : s.phase = u.phase
  ctx : s.ctx = u.ctx

variable {s t u : State}

theorem sameRegs_zeroized (s : State) : SameRegs State.reset s.zeroized :=
  ⟨rfl, rfl, rfl, rfl, rfl, rfl, rfl, rfl, rfl, rfl⟩

theorem sameRegs_platformReset (s : State) (rest : List Input) :
    SameRegs State.reset { s.platformReset with inputs := rest } :=
  ⟨rfl, rfl, rfl, rfl, rfl, rfl, rfl, rfl, rfl, rfl⟩

/-! # What a command writes -/

/-- The mode whose message a command that sets PHASE to DONE closes: the tag commands (45_gcm.md R259, R260,
46_poly1305_aead.md R297, R298), and CBC_DEC on a bad padding (44_cbc.md R233). -/
def closesMessage : Instr → Option Mode
  | .gcmTag _ | .gcmVerify _ => some .gcm
  | .cpTag | .cpVerify => some .cp
  | .cbcDec _ _ => some .cbc
  | _ => none

/-- The modes whose messages are closed are modes that use PHASE (10_state.md R50). -/
theorem closesMessage_usesPhase {i : Instr} {m : Mode} (h : closesMessage i = some m) :
    m ≠ .none ∧ m ≠ .chacha ∧ m ≠ .ctr := by
  cases i <;> cases h <;> decide

theorem writesPhase_of_closesMessage {i : Instr} {m : Mode} (h : closesMessage i = some m) : writesPhase i = true := by
  cases i <;> cases h <;> rfl

/-- `RegWrites s i u`: the command i, executed in the state s, leaves the key, nonce and stream registers as they are
in u, and u differs from s in nothing else. `kept` is an error, or a command that writes none of these registers. Each
other constructor is one command's register writes, under the checks of its rule that bound what it writes. -/
inductive RegWrites (s : State) : Instr → State → Prop
  | kept {i} : RegWrites s i s
  | zeroize : RegWrites s .zeroize s.zeroized
  | keyld {kl k} (hk : k.length = (keyLenOf kl).bytes) :
    RegWrites s (.keyld kl)
      { s with key := toReg 32 k, klen := keyLenOf kl, ksv := false, mode := .none, phase := .aad }
  | nonceld {v} (hn : s.argLen ≤ 32) (hv : v.length = s.argLen) :
    RegWrites s .nonceld { s with nonce := toReg 32 v, nlen := Fin.ofNat 33 s.argLen }
  | aesKeyexp (hk : s.klen ≠ .none) :
    RegWrites s .aesKeyexp { s with rk := loadSchedule s.rk s.schedule, nr := s.klen.rounds, ksv := true }
  | chachaInit {x} (hk : s.klen = .k32) (hi : s.chachaIndex ≤ chachaKsLen) :
    RegWrites s (.chachaInit x)
      { s with
        mode := .chacha, phase := .aad,
        ctx := { s.ctx with
          skey := toReg 32 (s.newStreamKey x), snonce := toReg 12 (s.newStreamNonce x), kidx := s.chachaIndex } }
  | chachaXor (hm : s.mode = .chacha) (hi : s.ctx.kidx + s.argLen ≤ chachaKsLen) :
    RegWrites s .chachaXor { s with ctx := { s.ctx with kidx := s.ctx.kidx + s.argLen } }
  | ctrInit {cw} (hk : s.ksv = true) (hw : ctrWidthOk cw) (hi : s.ctrIndex ≤ ctrLimit s.nonce16 cw) :
    RegWrites s (.ctrInit cw)
      { s with
        mode := .ctr, phase := .aad,
        ctx := { s.ctx with ctr0 := toReg 16 s.nonce16, cw := BitVec.ofNat 8 cw, kidx := s.ctrIndex } }
  | ctrXor (hm : s.mode = .ctr) (hi : s.ctx.kidx + s.argLen ≤ s.ctrLim) :
    RegWrites s .ctrXor { s with ctx := { s.ctx with kidx := s.ctx.kidx + s.argLen } }
  | cbcInit (hk : s.ksv = true) :
    RegWrites s .cbcInit
      { s with mode := .cbc, phase := .aad, ctx := { s.ctx with chain := toReg 16 s.nonce16 } }
  | cbcText {i last pad c} (hi : i = .cbcEnc last pad ∨ i = .cbcDec last pad) (hm : s.isOpen .cbc) :
    RegWrites s i
      { s with phase := phaseAfterCbc last s.phase, ctx := { s.ctx with chain := toReg 16 c } }
  | gcmInit (hk : s.ksv = true) :
    RegWrites s .gcmInit
      { s with
        mode := .gcm, phase := .aad,
        ctx := { s.ctx with
          h := toReg 16 s.newH, j0 := toReg 16 s.newJ0, y := toReg 16 (zeros 16), lena := 0, lenc := 0 } }
  | gcmAad {last a} (hm : s.takesAad .gcm) (hl : s.ctx.lena + s.argLen ≤ gcmAadMax) :
    RegWrites s (.gcmAad last)
      { s with
        phase := phaseAfterAad last s.phase,
        ctx := { s.ctx with y := toReg 16 (s.ghashAbsorb a), lena := s.ctx.lena + s.argLen } }
  | gcmText {i last c} (hi : i = .gcmEnc last ∨ i = .gcmDec last) (hm : s.takesText .gcm)
      (hl : s.ctx.lenc + s.argLen ≤ gcmTextMax) :
    RegWrites s i
      { s with
        phase := phaseAfterText last,
        ctx := { s.ctx with y := toReg 16 (s.ghashAbsorb c), lenc := s.ctx.lenc + s.argLen } }
  | cpInit {x} (hk : s.klen = .k32) :
    RegWrites s (.cpInit x)
      { s with
        mode := .cp, phase := .aad,
        ctx := { s.ctx with
          skey := toReg 32 (s.newStreamKey x), snonce := toReg 12 (s.newStreamNonce x), kidx := 64,
          pr := polyR (oneTimeKey (s.newStreamKey x) (s.newStreamNonce x)),
          ps := polyS (oneTimeKey (s.newStreamKey x) (s.newStreamNonce x)), acc := 0, lena := 0, lenc := 0 } }
  | cpAad {last a} (hm : s.takesAad .cp) (hl : s.ctx.lena + s.argLen ≤ cpAadMax) :
    RegWrites s (.cpAad last)
      { s with
        phase := phaseAfterAad last s.phase,
        ctx := { s.ctx with acc := s.polyAbsorbed a, lena := s.ctx.lena + s.argLen } }
  | cpText {i last c} (hi : i = .cpEnc last ∨ i = .cpDec last) (hm : s.takesText .cp)
      (hl : s.ctx.kidx + s.argLen ≤ chachaKsLen) :
    RegWrites s i
      { s with
        phase := phaseAfterText last,
        ctx := { s.ctx with
          acc := s.polyAbsorbed c, kidx := s.ctx.kidx + s.argLen, lenc := s.ctx.lenc + s.argLen } }
  | closed {i m} (hi : closesMessage i = some m) (hm : s.isOpen m) : RegWrites s i { s with phase := .done }

/-- r is an answer of the command i in the state s: a next state is one that `RegWrites` gives, completed
(60_exceptions.md R334), with some DMEM. -/
def Ends (s : State) (i : Instr) (r : Result) : Prop :=
  ∀ t, r = .next t → ∃ u e n m, RegWrites s i u ∧ t = State.completed { u with dmem := m } e n

section
variable {i : Instr} {e : ErrCode} {k : Result}

theorem Ends.finish {n : Nat} (h : RegWrites s i u) : Ends s i (finish n u) :=
  fun _ ht => ⟨u, .none, n, u.dmem, h, finish_next ht⟩

theorem Ends.finishWrite {n : Nat} {a : U32} {v : Bytes} (h : RegWrites s i u) : Ends s i (finishWrite n a v u) :=
  fun _ ht => ⟨u, .none, n, _, h, finishWrite_next ht⟩

/-- A check whose error also writes registers (60_exceptions.md R333: the PHASE exceptions). -/
theorem Ends.requireOr {c : Prop} [Decidable c] (h : RegWrites s i u) (hk : c → Ends s i k) :
    Ends s i (require c e u k) := fun t ht => by
  rcases require_next ht with ⟨hc, ht⟩ | ⟨_, ht⟩
  · exact hk hc t ht
  · exact ⟨u, e, 0, u.dmem, h, ht⟩

theorem Ends.require {c : Prop} [Decidable c] (hk : c → Ends s i k) : Ends s i (require c e s k) :=
  .requireOr .kept hk

theorem Ends.memRead {a : U32} {n : Nat} {k : Bytes → Result} (hk : ∀ v, v.length = n → Ends s i (k v)) :
    Ends s i (memRead s a n k) := fun t ht => by
  obtain ⟨v, _, hv, ht⟩ := memRead_next ht
  exact hk v hv t ht

end

/-! ## One lemma per command: its checks in the order of its rule, and what it writes when they hold -/

theorem ends_aesBlock {i : Instr} {f : Bytes → Bytes} : Ends s i (aesBlockCommand f s) :=
  .require fun _ => .require fun _ => .memRead fun _ _ => .finishWrite .kept

theorem ends_gcmText {i : Instr} {f : Bytes → Bytes → Bytes} {last : Bool}
    (hi : i = .gcmEnc last ∨ i = .gcmDec last) : Ends s i (gcmTextCommand f last s) :=
  .require fun hm => .require fun _ => .require fun _ => .require fun hl => .memRead fun _ _ =>
    .finishWrite (.gcmText hi hm hl)

theorem ends_cpText {i : Instr} {f : Bytes → Bytes → Bytes} {last : Bool}
    (hi : i = .cpEnc last ∨ i = .cpDec last) : Ends s i (cpTextCommand f last s) :=
  .require fun hm => .require fun _ => .require fun _ => .require fun hl => .memRead fun _ _ =>
    .finishWrite (.cpText hi hm hl)

theorem ends_nop : Ends s .nop (execNop s) := .finish .kept

theorem ends_zeroize : Ends s .zeroize (execZeroize s) := .finish .zeroize

theorem ends_keyld (kl : Nat) : Ends s (.keyld kl) (execKeyld kl s) :=
  .require fun _ => .require fun _ => .memRead fun _ hk => .finish (.keyld hk)

theorem ends_nonceld : Ends s .nonceld (execNonceld s) :=
  .require fun hn => .require fun _ => .memRead fun _ hv => .finish (.nonceld hn hv)

theorem ends_aesKeyexp : Ends s .aesKeyexp (execAesKeyexp s) :=
  .require fun hk => .finish (.aesKeyexp hk)

theorem ends_aesEnc : Ends s .aesEnc (execAesEnc s) := ends_aesBlock

theorem ends_aesDec : Ends s .aesDec (execAesDec s) := ends_aesBlock

theorem ends_chachaBlk : Ends s .chachaBlk (execChachaBlk s) :=
  .require fun _ => .require fun _ => .require fun _ => .finishWrite .kept

theorem ends_hchacha : Ends s .hchacha (execHchacha s) :=
  .require fun _ => .require fun _ => .memRead fun _ _ => .finishWrite .kept

theorem ends_chachaInit (x : Bool) : Ends s (.chachaInit x) (execChachaInit x s) :=
  .require fun hk => .require fun _ => .require fun hi => .finish (.chachaInit hk hi)

theorem ends_chachaXor : Ends s .chachaXor (execChachaXor s) :=
  .require fun hm => .require fun _ => .require fun hi => .memRead fun _ _ => .finishWrite (.chachaXor hm hi)

theorem ends_ctrInit (cw : Nat) : Ends s (.ctrInit cw) (execCtrInit cw s) :=
  .require fun hk => .require fun _ => .require fun hw => .require fun hi => .finish (.ctrInit hk hw hi)

theorem ends_ctrXor : Ends s .ctrXor (execCtrXor s) :=
  .require fun hm => .require fun _ => .require fun hi => .memRead fun _ _ => .finishWrite (.ctrXor hm hi)

theorem ends_cbcInit : Ends s .cbcInit (execCbcInit s) :=
  .require fun hk => .require fun _ => .finish (.cbcInit hk)

theorem ends_cbcEnc (last pad : Bool) : Ends s (.cbcEnc last pad) (execCbcEnc last pad s) :=
  .require fun hm => .require fun _ => .require fun _ => .memRead fun _ _ =>
    .finishWrite (.cbcText (.inl rfl) hm)

theorem ends_cbcDec (last pad : Bool) : Ends s (.cbcDec last pad) (execCbcDec last pad s) :=
  .require fun hm => .require fun _ => .require fun _ => .require fun _ => .memRead fun _ _ =>
    .requireOr (.closed rfl hm) fun _ => .finishWrite (.cbcText (.inr rfl) hm)

theorem ends_gf128Mul : Ends s .gf128Mul (execGf128Mul s) :=
  .require fun _ => .memRead fun _ _ => .memRead fun _ _ => .finishWrite .kept

theorem ends_gcmInit : Ends s .gcmInit (execGcmInit s) :=
  .require fun hk => .require fun _ => .finish (.gcmInit hk)

theorem ends_gcmAad (last : Bool) : Ends s (.gcmAad last) (execGcmAad last s) :=
  .require fun hm => .require fun _ => .require fun _ => .require fun hl => .memRead fun _ _ =>
    .finish (.gcmAad hm hl)

theorem ends_gcmEnc (last : Bool) : Ends s (.gcmEnc last) (execGcmEnc last s) := ends_gcmText (.inl rfl)

theorem ends_gcmDec (last : Bool) : Ends s (.gcmDec last) (execGcmDec last s) := ends_gcmText (.inr rfl)

theorem ends_gcmTag (tl : Nat) : Ends s (.gcmTag tl) (execGcmTag tl s) :=
  .require fun hm => .require fun _ => .require fun _ => .finishWrite (.closed rfl hm)

theorem ends_gcmVerify (tl : Nat) : Ends s (.gcmVerify tl) (execGcmVerify tl s) :=
  .require fun hm => .require fun _ => .require fun _ => .memRead fun _ _ =>
    .requireOr (.closed rfl hm) fun _ => .finish (.closed rfl hm)

theorem ends_gcmOpen (tl : Nat) : Ends s (.gcmOpen tl) (execGcmOpen tl s) :=
  .require fun _ => .require fun _ => .require fun _ => .require fun _ => .memRead fun _ _ =>
    .memRead fun _ _ => .memRead fun _ _ => .require fun _ => .finishWrite .kept

theorem ends_poly1305 : Ends s .poly1305 (execPoly1305 s) :=
  .require fun _ => .memRead fun _ _ => .memRead fun _ _ => .finishWrite .kept

theorem ends_cpInit (x : Bool) : Ends s (.cpInit x) (execCpInit x s) :=
  .require fun hk => .require fun _ => .finish (.cpInit hk)

theorem ends_cpAad (last : Bool) : Ends s (.cpAad last) (execCpAad last s) :=
  .require fun hm => .require fun _ => .require fun _ => .require fun hl => .memRead fun _ _ =>
    .finish (.cpAad hm hl)

theorem ends_cpEnc (last : Bool) : Ends s (.cpEnc last) (execCpEnc last s) := ends_cpText (.inl rfl)

theorem ends_cpDec (last : Bool) : Ends s (.cpDec last) (execCpDec last s) := ends_cpText (.inr rfl)

theorem ends_cpTag : Ends s .cpTag (execCpTag s) :=
  .require fun hm => .require fun _ => .finishWrite (.closed rfl hm)

theorem ends_cpVerify : Ends s .cpVerify (execCpVerify s) :=
  .require fun hm => .require fun _ => .memRead fun _ _ =>
    .requireOr (.closed rfl hm) fun _ => .finish (.closed rfl hm)

theorem ends_cpOpen (x : Bool) : Ends s (.cpOpen x) (execCpOpen x s) :=
  .require fun _ => .require fun _ => .require fun _ => .memRead fun _ _ => .memRead fun _ _ =>
    .memRead fun _ _ => .require fun _ => .finishWrite .kept

/-- Everything a command can do to the key, nonce and stream registers. -/
theorem exec_ends (i : Instr) (s : State) : Ends s i (exec i s) :=
  match i with
  | .nop => ends_nop
  | .zeroize => ends_zeroize
  | .keyld kl => ends_keyld kl
  | .nonceld => ends_nonceld
  | .aesKeyexp => ends_aesKeyexp
  | .aesEnc => ends_aesEnc
  | .aesDec => ends_aesDec
  | .chachaBlk => ends_chachaBlk
  | .hchacha => ends_hchacha
  | .chachaInit x => ends_chachaInit x
  | .chachaXor => ends_chachaXor
  | .ctrInit cw => ends_ctrInit cw
  | .ctrXor => ends_ctrXor
  | .cbcInit => ends_cbcInit
  | .cbcEnc last pad => ends_cbcEnc last pad
  | .cbcDec last pad => ends_cbcDec last pad
  | .gf128Mul => ends_gf128Mul
  | .gcmInit => ends_gcmInit
  | .gcmAad last => ends_gcmAad last
  | .gcmEnc last => ends_gcmEnc last
  | .gcmDec last => ends_gcmDec last
  | .gcmTag tl => ends_gcmTag tl
  | .gcmVerify tl => ends_gcmVerify tl
  | .gcmOpen tl => ends_gcmOpen tl
  | .poly1305 => ends_poly1305
  | .cpInit x => ends_cpInit x
  | .cpAad last => ends_cpAad last
  | .cpEnc last => ends_cpEnc last
  | .cpDec last => ends_cpDec last
  | .cpTag => ends_cpTag
  | .cpVerify => ends_cpVerify
  | .cpOpen x => ends_cpOpen x

/-! # What a step can do to the registers -/

theorem hostWrite_sameRegs {bits off : Nat} {v : U32} (h : hostWrite s bits off v = .ok t) : SameRegs s t := by
  rcases hostWrite_ok h with rfl | rfl | ⟨_, rfl⟩ | ⟨_, _, _, _, rfl⟩ <;>
    exact ⟨rfl, rfl, rfl, rfl, rfl, rfl, rfl, rfl, rfl, rfl⟩

theorem SameRegs.completed {e : ErrCode} {n : Nat} {m : Memory} :
    SameRegs u (State.completed { u with dmem := m } e n) :=
  ⟨rfl, rfl, rfl, rfl, rfl, rfl, rfl, rfl, rfl, rfl⟩

/-- A property of the key, nonce and stream registers that holds at reset, and that the register writes of every
command keep, is kept by every step: a host access writes none of these registers, and a platform reset resets them. -/
theorem step_keeps {P : State → Prop} (congr : ∀ {s u}, SameRegs s u → P s → P u) (reset : P State.reset)
    (writes : ∀ {s i u}, RegWrites s i u → P s → P u) (hs : P s) (h : step s = .next t) : P t := by
  rcases step_next h with ⟨_, h⟩ | ⟨_, rest, _, _, h⟩ | ⟨_, rest, _, _, h⟩ | ⟨_, _, rfl⟩
  · rcases engineStep_next h with ⟨i, _, h⟩ | rfl
    · obtain ⟨u, _, _, _, hw, rfl⟩ := exec_ends i s t h
      exact congr .completed (writes hw hs)
    · exact congr .completed hs
  · rcases hostBusy_next h with ⟨_, _, rfl⟩ | ⟨_, rfl⟩
    · exact congr (s := s) ⟨rfl, rfl, rfl, rfl, rfl, rfl, rfl, rfl, rfl, rfl⟩ hs
    · exact congr (sameRegs_platformReset s rest) reset
  · rcases hostIdle_next h with ⟨_, rfl⟩ | ⟨_, _, _, u, _, hu, rfl⟩ | ⟨_, rfl⟩
    · exact congr (s := s) ⟨rfl, rfl, rfl, rfl, rfl, rfl, rfl, rfl, rfl, rfl⟩ hs
    · exact congr (s := u) ⟨rfl, rfl, rfl, rfl, rfl, rfl, rfl, rfl, rfl, rfl⟩ (congr (hostWrite_sameRegs hu) hs)
    · exact congr (sameRegs_platformReset s rest) reset
  · exact hs

/-! # The key-state invariant -/

/-! ## The key schedule (41_aes.md R155) -/

theorem nextKeyWord_length {nk : Nat} {w : List Bytes} (hnk : 0 < nk) (hle : nk ≤ w.length)
    (hw : ∀ b ∈ w, b.length = 4) : (nextKeyWord nk w).length = 4 := by
  have hget {i : Nat} (hi : i < w.length) : (w.getD i []).length = 4 := by
    rw [List.getD_eq_getElem _ _ hi]
    exact hw _ (List.getElem_mem hi)
  have h1 := hget (i := w.length - 1) (by omega)
  have h2 := hget (i := w.length - nk) (by omega)
  simp only [nextKeyWord, xorBytes_length, h2]
  generalize w.getD (w.length - 1) [] = t at h1 ⊢
  split
  · simp [subWord, rotWord, rcon, h1]
  · split <;> simp [subWord, h1]

/-- Each word of the schedule has four bytes, and `steps` more words lengthen it by `steps`. -/
theorem extendKeyWords_spec {nk : Nat} (hnk : 0 < nk) (steps : Nat) {w : List Bytes} (hle : nk ≤ w.length)
    (hw : ∀ b ∈ w, b.length = 4) :
    (extendKeyWords nk steps w).length = w.length + steps ∧ ∀ b ∈ extendKeyWords nk steps w, b.length = 4 := by
  induction steps generalizing w with
  | zero => exact ⟨rfl, hw⟩
  | succ steps ih =>
    have hnext := nextKeyWord_length hnk hle hw
    have hw' : ∀ b ∈ w ++ [nextKeyWord nk w], b.length = 4 := by
      intro b hb
      rcases List.mem_append.mp hb with hb | hb
      · exact hw b hb
      · rw [List.mem_singleton.mp hb, hnext]
    obtain ⟨hlen, hall⟩ := ih (by simp; omega) hw'
    refine ⟨?_, hall⟩
    rw [extendKeyWords, hlen, List.length_append, List.length_singleton]
    omega

theorem keyWords_length_eq_four {nk : Nat} {key : Bytes} (hkey : key.length = 4 * nk) :
    ∀ b ∈ keyWords nk key, b.length = 4 := by
  intro b hb
  obtain ⟨i, hi, rfl⟩ := List.mem_map.mp hb
  have hi := List.mem_range.mp hi
  rw [slice_length]
  omega

theorem length_flatten_of_four {l : List Bytes} (hl : ∀ b ∈ l, b.length = 4) : l.flatten.length = 4 * l.length := by
  rw [List.length_flatten, List.map_congr_left hl, List.map_const', List.sum_replicate, smul_eq_mul, Nat.mul_comm]

/-- The schedule has 4(Nk + 7) words of four bytes (41_aes.md R155, R162). -/
theorem keyExpansion_flatten_length {nk : Nat} {key : Bytes} (hnk : 0 < nk) (hnk' : nk ≤ 8)
    (hkey : key.length = 4 * nk) : (keyExpansion nk key).flatten.length = 16 * (nk + 7) := by
  have hk : (keyWords nk key).length = nk := by simp [keyWords]
  obtain ⟨hlen, hall⟩ := extendKeyWords_spec hnk (4 * (nk + 6 + 1) - nk) hk.ge (keyWords_length_eq_four hkey)
  rw [keyExpansion, length_flatten_of_four hall, hlen, hk]
  omega

theorem KeyLen.bytes_le (k : KeyLen) : k.bytes ≤ 32 := by cases k <;> decide

/-- Nk of a loaded key is 1 to 8 words (41_aes.md R162). -/
theorem KeyLen.nk_spec {k : KeyLen} (h : k ≠ .none) : 0 < k.nk ∧ k.nk ≤ 8 ∧ k.bytes = 4 * k.nk := by
  cases k with
  | none => exact absurd rfl h
  | k16 | k24 | k32 => decide

/-- The schedule of a loaded key is the 16(Nr + 1) bytes that RK gives it (10_state.md R41). -/
theorem schedule_length (h : s.klen ≠ .none) : s.schedule.length = 16 * (s.klen.rounds + 1) := by
  have hb := s.klen.bytes_le
  obtain ⟨hpos, hle, hbytes⟩ := KeyLen.nk_spec h
  have hkey : (slice s.key.toList 0 s.klen.bytes).length = 4 * s.klen.nk := by
    rw [slice_length, Vector.length_toList]
    omega
  rw [State.schedule, keyExpansion_flatten_length hpos hle hkey, KeyLen.rounds]

theorem schedule_length_le (h : s.klen ≠ .none) : s.schedule.length ≤ 240 := by
  rw [schedule_length h]
  cases s.klen <;> decide

/-- RK starts with the schedule that was loaded into it. -/
theorem loadSchedule_take {rk : Reg 240} {w : Bytes} (h : w.length ≤ 240) :
    (loadSchedule rk w).toList.take w.length = w := by
  rw [loadSchedule, toReg_toList (by simp; omega), List.take_left]

/-- Loading the schedule that RK starts with changes nothing. -/
theorem loadSchedule_self {rk : Reg 240} {w : Bytes} (h : rk.toList.take w.length = w) : loadSchedule rk w = rk := by
  have hw : w ++ rk.toList.drop w.length = rk.toList := by
    conv_lhs => enter [1]; rw [← h]
    rw [List.take_append_drop]
  rw [loadSchedule, hw, toReg_of_toList]

/-! ## The zero bytes past KLEN and NLEN -/

/-- A register past the bytes it was loaded with is zero (10_state.md R40, R42). -/
theorem toReg_drop {n k : Nat} {b : Bytes} (hb : b.length = k) : (toReg n b).toList.drop k = zeros (n - k) := by
  subst hb
  simp [toReg_toList_eq, List.drop_take, zeros]

/-! ## The invariant -/

theorem keyInv_reset : KeyInv State.reset where
  keyTail := rfl
  nonceTail := rfl
  expanded := nofun
  aesMode := by decide
  chachaMode := by decide

theorem KeyInv.congr (h : SameRegs s u) (hs : KeyInv s) : KeyInv u := by
  have hsch : u.schedule = s.schedule := by rw [State.schedule, State.schedule, h.key, h.klen]
  constructor
  · rw [← h.key, ← h.klen]; exact hs.keyTail
  · rw [← h.nonce, ← h.nlen]; exact hs.nonceTail
  · rw [← h.ksv, ← h.klen, ← h.nr, ← h.rk, hsch]; exact hs.expanded
  · rw [← h.mode, ← h.ksv]; exact hs.aesMode
  · rw [← h.mode, ← h.klen]; exact hs.chachaMode

theorem RegWrites.keyInv {i : Instr} (hw : RegWrites s i u) (h : KeyInv s) : KeyInv u := by
  cases hw with
  | zeroize => exact keyInv_reset.congr (sameRegs_zeroized s)
  | keyld hk => exact { h with keyTail := toReg_drop hk, expanded := nofun, aesMode := by simp, chachaMode := by simp }
  | nonceld hn hv =>
    have hlen : (Fin.ofNat 33 s.argLen).val = s.argLen := Nat.mod_eq_of_lt (by omega)
    exact { h with nonceTail := by rw [hlen]; exact toReg_drop hv }
  | aesKeyexp hk =>
    have hload := loadSchedule_take (rk := s.rk) (schedule_length_le hk)
    rw [schedule_length hk] at hload
    exact { h with expanded := fun _ => ⟨hk, rfl, hload⟩, aesMode := fun _ => rfl }
  | chachaInit hk _ | cpInit hk => exact { h with aesMode := by simp, chachaMode := fun _ => hk }
  | ctrInit hk _ _ | cbcInit hk | gcmInit hk =>
    exact { h with aesMode := fun _ => hk, chachaMode := by simp }
  | _ => exact { h with }

/-- Settles O57: the commands that write a key register or MODE establish what the invariant says of it, and the others
write PHASE and the mode context only. -/
theorem stepKeepsKeyInv : Obligations.StepKeepsKeyInv :=
  fun _ _ hs h => step_keeps KeyInv.congr keyInv_reset RegWrites.keyInv hs h

/-! # H and the one-time key -/

theorem derivedKeyInv_reset : DerivedKeyInv State.reset where
  keys := keyInv_reset
  gcmH := nofun
  cpKey := nofun

theorem DerivedKeyInv.congr (h : SameRegs s u) (hs : DerivedKeyInv s) : DerivedKeyInv u := by
  constructor
  · exact hs.keys.congr h
  · rw [State.aesEnc, ← h.mode, ← h.ctx, ← h.rk, ← h.nr]; exact hs.gcmH
  · rw [← h.mode, ← h.ctx]; exact hs.cpKey

/-- AES_KEYEXP with KSV = 1 leaves the schedule as it is, since KEY has not changed since RK was expanded. -/
theorem KeyInv.aesKeyexp_schedule (h : KeyInv s) (hk : s.ksv = true) :
    loadSchedule s.rk s.schedule = s.rk ∧ s.klen.rounds = s.nr := by
  obtain ⟨hlen, hnr, hrk⟩ := h.expanded hk
  rw [hnr, ← schedule_length hlen] at hrk
  exact ⟨loadSchedule_self hrk, hnr.symm⟩

theorem RegWrites.derivedKeyInv {i : Instr} (hw : RegWrites s i u) (h : DerivedKeyInv s) : DerivedKeyInv u := by
  have hkeys := hw.keyInv h.keys
  cases hw with
  | zeroize => exact derivedKeyInv_reset.congr (sameRegs_zeroized s)
  | keyld _ | chachaInit _ _ | ctrInit _ _ _ | cbcInit _ => exact ⟨hkeys, nofun, nofun⟩
  | aesKeyexp _ =>
    refine ⟨hkeys, fun hm => ?_, h.cpKey⟩
    obtain ⟨hrk, hnr⟩ := h.keys.aesKeyexp_schedule (h.keys.aesMode (.inr (.inr hm)))
    simpa [State.aesEnc, hrk, hnr] using h.gcmH hm
  | gcmInit _ => exact ⟨hkeys, fun _ => toReg_toList (aesEncrypt_length _ _ _), nofun⟩
  | @cpInit x _ =>
    have hkey : (toReg 32 (s.newStreamKey x)).toList = s.newStreamKey x :=
      toReg_toList (streamKey_length _ _ _ (by simp))
    have hnonce : (toReg 12 (s.newStreamNonce x)).toList = s.newStreamNonce x :=
      toReg_toList (streamNonce_length _ _ (by simp))
    exact ⟨hkeys, nofun, fun _ => by rw [hkey, hnonce]; exact ⟨rfl, rfl⟩⟩
  | _ => exact ⟨hkeys, h.gcmH, h.cpKey⟩

/-- Settles O59: the INIT commands derive H, PR and PS, no other command of their modes writes them, and an
AES_KEYEXP inside a GCM stream leaves the schedule that H comes from as it is. -/
theorem stepKeepsDerivedKeyInv : Obligations.StepKeepsDerivedKeyInv :=
  fun _ _ hs h => step_keeps DerivedKeyInv.congr derivedKeyInv_reset RegWrites.derivedKeyInv hs h

/-! # The bounds on the stream registers -/

theorem streamInv_reset : StreamInv State.reset where
  kidxWidth := Nat.zero_le _
  lenaWidth := by decide
  lencWidth := by decide
  accWidth := by decide
  chacha := nofun
  ctrWidth := nofun
  ctr := nofun
  gcm := nofun
  cp := nofun
  clamped := by decide
  phaseUnused := fun _ => rfl
  phaseCbc := nofun

theorem StreamInv.congr (h : SameRegs s u) (hs : StreamInv s) : StreamInv u := by
  have hm := h.mode
  have hp := h.phase
  have hc := h.ctx
  constructor <;> simp only [← hm, ← hp, ← hc]
  exacts [hs.kidxWidth, hs.lenaWidth, hs.lencWidth, hs.accWidth, hs.chacha, hs.ctrWidth, hs.ctr, hs.gcm, hs.cp,
    hs.clamped, hs.phaseUnused, hs.phaseCbc]

/-- LIM of a CTR stream is at most 2^132 bytes, which is the width of KIDX (43_ctr.md R211, 10_state.md R44). -/
theorem ctrLimit_le (ctr0 : Bytes) {cw : Nat} (h : cw ≤ 128) : ctrLimit ctr0 cw ≤ 2 ^ 132 :=
  calc ctrLimit ctr0 cw ≤ 16 * 2 ^ cw := Nat.mul_le_mul_left _ (Nat.sub_le _ _)
    _ ≤ 16 * 2 ^ 128 := Nat.mul_le_mul_left _ (Nat.pow_le_pow_right (by decide) h)
    _ = 2 ^ 132 := by norm_num

theorem polyR_clamped (k : Bytes) : polyR k &&& polyClamp = polyR k := by
  rw [polyR, BitVec.and_assoc, BitVec.and_self]

theorem RegWrites.streamInv {i : Instr} (hw : RegWrites s i u) (h : StreamInv s) : StreamInv u := by
  cases hw with
  | zeroize => exact streamInv_reset.congr (sameRegs_zeroized s)
  | keyld _ =>
    exact { h with
      chacha := nofun, ctrWidth := nofun, ctr := nofun, gcm := nofun, cp := nofun, phaseUnused := fun _ => rfl,
      phaseCbc := nofun }
  | chachaInit _ hi =>
    exact { h with
      kidxWidth := le_trans hi (by decide), chacha := fun _ => hi, ctrWidth := nofun, ctr := nofun, gcm := nofun,
      cp := nofun, phaseUnused := fun _ => rfl, phaseCbc := nofun }
  | chachaXor hm hi =>
    exact { h with
      kidxWidth := le_trans hi (by decide), chacha := fun _ => hi, ctr := by simp [hm], cp := by simp [hm] }
  | @ctrInit cw _ hcw hi =>
    obtain ⟨hpos, hle⟩ := hcw
    have hcw : (BitVec.ofNat 8 cw).toNat = cw := Nat.mod_eq_of_lt (lt_of_le_of_lt hle (by decide))
    have hnonce : (toReg 16 s.nonce16).toList = s.nonce16 := toReg_toList (by simp [State.nonce16])
    exact { h with
      kidxWidth := le_trans hi (ctrLimit_le _ hle), chacha := nofun,
      ctrWidth := fun _ => by rw [hcw]; exact ⟨hpos, hle⟩, ctr := fun _ => by rw [hcw, hnonce]; exact hi,
      gcm := nofun, cp := nofun, phaseUnused := fun _ => rfl, phaseCbc := nofun }
  | ctrXor hm hi =>
    exact { h with
      kidxWidth := le_trans hi (ctrLimit_le _ (h.ctrWidth hm).2), ctr := fun _ => hi, chacha := by simp [hm],
      cp := by simp [hm] }
  | cbcInit _ =>
    exact { h with
      chacha := nofun, ctrWidth := nofun, ctr := nofun, gcm := nofun, cp := nofun, phaseUnused := by simp,
      phaseCbc := fun _ => .inl rfl }
  | @cbcText _ last _ _ _ hm =>
    obtain ⟨hm, hp⟩ := hm
    refine { h with phaseUnused := by simp [hm], phaseCbc := fun _ => ?_ }
    cases last
    · exact h.phaseCbc hm
    · exact .inr rfl
  | gcmInit _ =>
    exact { h with
      lenaWidth := Nat.two_pow_pos _, lencWidth := Nat.two_pow_pos _, chacha := nofun, ctrWidth := nofun, ctr := nofun,
      gcm := fun _ => ⟨Nat.zero_le _, Nat.zero_le _⟩, cp := nofun, phaseUnused := by simp, phaseCbc := nofun }
  | gcmAad hm hl =>
    obtain ⟨hm, hp⟩ := hm
    exact { h with
      lenaWidth := lt_of_le_of_lt hl (by decide), gcm := fun hm => ⟨hl, (h.gcm hm).2⟩, phaseUnused := by simp [hm],
      phaseCbc := by simp [hm] }
  | gcmText _ hm hl =>
    obtain ⟨hm, hp⟩ := hm
    exact { h with
      lencWidth := lt_of_le_of_lt hl (by decide), gcm := fun hm => ⟨(h.gcm hm).1, hl⟩, cp := by simp [hm],
      phaseUnused := by simp [hm], phaseCbc := by simp [hm] }
  | cpInit _ =>
    exact { h with
      kidxWidth := by simp, lenaWidth := Nat.two_pow_pos _, lencWidth := Nat.two_pow_pos _, accWidth := by simp,
      chacha := nofun, ctrWidth := nofun, ctr := nofun, gcm := nofun, cp := fun _ => ⟨rfl, by simp⟩,
      clamped := polyR_clamped _, phaseUnused := by simp, phaseCbc := nofun }
  | cpAad hm hl =>
    obtain ⟨hm, hp⟩ := hm
    exact { h with
      lenaWidth := lt_of_le_of_lt hl (by decide), accWidth := polyAbsorb_lt _ _ _ h.accWidth, gcm := by simp [hm],
      phaseUnused := by simp [hm], phaseCbc := by simp [hm] }
  | cpText _ hm hl =>
    obtain ⟨hm, hp⟩ := hm
    have hk := (h.cp hm).1
    have hsum : s.ctx.kidx + s.argLen = 64 + (s.ctx.lenc + s.argLen) := by omega
    have hlenc : s.ctx.lenc + s.argLen ≤ chachaKsLen := by omega
    exact { h with
      kidxWidth := le_trans hl (by decide), lencWidth := lt_of_le_of_lt hlenc (by decide),
      accWidth := polyAbsorb_lt _ _ _ h.accWidth, chacha := fun _ => hl, ctr := by simp [hm], gcm := by simp [hm],
      cp := fun _ => ⟨hsum, hl⟩, phaseUnused := by simp [hm], phaseCbc := by simp [hm] }
  | @closed _ m hi hm =>
    obtain ⟨hm, hp⟩ := hm
    have hused := closesMessage_usesPhase hi
    exact { h with phaseUnused := by simp [hm, hused], phaseCbc := fun _ => .inr rfl }
  | _ => exact { h with }

/-- Settles O58: each command checks its counts against the bounds before it adds to them, and an INIT command sets the
registers of its own mode within them. -/
theorem stepKeepsStreamInv : Obligations.StepKeepsStreamInv :=
  fun _ _ hs h => step_keeps StreamInv.congr streamInv_reset RegWrites.streamInv hs h

/-! # The reset state -/

/-- Settles O60: a platform reset sets every register that the invariants speak of to its reset value. -/
theorem resetMeetsInvariants : Obligations.ResetMeetsInvariants := by
  refine ⟨⟨rfl, rfl⟩, derivedKeyInv_reset, streamInv_reset, fun s => ⟨⟨rfl, rfl⟩, ?_, ?_⟩⟩
  · exact derivedKeyInv_reset.congr (sameRegs_platformReset s s.inputs)
  · exact streamInv_reset.congr (sameRegs_platformReset s s.inputs)

/-- Settles O46: each register of `State.reset` by its definition. -/
theorem resetStateIsAsSpecified : Obligations.ResetStateIsAsSpecified := by
  unfold Obligations.ResetStateIsAsSpecified
  refine ⟨rfl, rfl, rfl, ?status, rfl, rfl, rfl, rfl, rfl, rfl, rfl, rfl, rfl, rfl, rfl, rfl, rfl, rfl, rfl, rfl, rfl,
    rfl, rfl, rfl, rfl, rfl, rfl, rfl, rfl, fun _ => rfl⟩
  case status => decide

/-! # The frame of a command -/

theorem ctxFrame_refl (i : Instr) (c : Context) : ctxFrame i c c := by
  cases i <;> trivial

/-- The state outside the engine's registers and DMEM is not a command's to write (10_state.md R31, R54). -/
theorem RegWrites.outside {i : Instr} (hw : RegWrites s i u) :
    u.cfg = s.cfg ∧ u.latch = s.latch ∧ u.args = s.args ∧ u.inputs = s.inputs ∧ u.answers = s.answers ∧
    u.lastAccess = s.lastAccess ∧ u.pollsLeft = s.pollsLeft ∧ u.draws = s.draws := by
  cases hw <;> exact ⟨rfl, rfl, rfl, rfl, rfl, rfl, rfl, rfl⟩

/-- The registers a command writes are those of its row of `writesKey` to `ctxFrame`. -/
theorem RegWrites.frame {i : Instr} (hw : RegWrites s i u) :
    (writesKey i = false → u.key = s.key ∧ u.klen = s.klen) ∧
    (writesSchedule i = false → u.rk = s.rk ∧ u.nr = s.nr) ∧
    (writesKsv i = false → u.ksv = s.ksv) ∧
    (writesNonce i = false → u.nonce = s.nonce ∧ u.nlen = s.nlen) ∧
    (writesMode i = false → u.mode = s.mode) ∧
    (writesPhase i = false → u.phase = s.phase) ∧
    ctxFrame i s.ctx u.ctx := by
  cases hw with
  | kept => simp [ctxFrame_refl]
  | cbcText hi _ | gcmText hi _ _ | cpText hi _ _ =>
    rcases hi with rfl | rfl <;> simp [writesPhase, ctxFrame]
  | closed hi _ => simp [writesPhase_of_closesMessage hi, ctxFrame_refl]
  | _ => simp [writesKey, writesSchedule, writesKsv, writesNonce, writesMode, writesPhase, ctxFrame]

/-- Settles O44: `exec_ends` gives the registers a command writes, and its completion writes ERRC, OUTLEN, BUSY and
DMEM only. -/
theorem commandsKeepOtherRegisters : Obligations.CommandsKeepOtherRegisters := by
  intro i s t h
  obtain ⟨u, e, n, m, hw, rfl⟩ := exec_ends i s t h
  obtain ⟨hcfg, hlatch, hargs, hinputs, hanswers, hlast, hpolls, hdraws⟩ := hw.outside
  exact ⟨rfl, hcfg, hlatch, hargs, hinputs, hanswers, hlast, hpolls, hdraws, hw.frame⟩

/-! # The host's reads and STATUS -/

theorem hostRead_reg {off : Nat} {r : HostReg} (s : State) (hr : regAt off = some r) (hoff : off < dmemWindow)
    (ha : off % 4 = 0) : hostRead s 32 off = .ok (readReg s r) := by
  have hl : accessLegal 32 off := by rw [accessLegal, if_pos hoff]; exact ⟨rfl, ha⟩
  rw [hostRead, if_neg (not_not.mpr hl), if_pos hoff, hr]

theorem readReg_congr (h : SameVisible s u) (hs : s.busy = false) (hu : u.busy = false) (r : HostReg) :
    readReg s r = readReg u r := by
  cases r with
  | status => simp [readReg, hs, hu, statusWord, h.nlen, h.phase, h.mode, h.ksv, h.klen, h.errc]
  | outlen => exact h.outlen
  | id | cmd => rfl
  | _ => simp only [readReg, h.args]

/-- The fields of a word laid out as STATUS is, read back at their bit positions (10_state.md R34). -/
theorem statusLayout (nlen : BitVec 6) (phase : BitVec 2) (mode : BitVec 3) (ksv : Bool) (klc : BitVec 2)
    (errc : BitVec 4) (err : BitVec 1) :
    let w := (0 : BitVec 2) ++ nlen ++ (0 : BitVec 6) ++ phase ++ (0 : BitVec 1) ++ mode ++ (0 : BitVec 1) ++
      BitVec.ofBool ksv ++ klc ++ errc ++ (0 : BitVec 2) ++ err ++ (0 : BitVec 1)
    w.getLsbD 0 = false ∧ w.getLsbD 1 = err.getLsbD 0 ∧ w.extractLsb' 2 2 = 0 ∧ w.extractLsb' 4 4 = errc ∧
      w.extractLsb' 8 2 = klc ∧ w.getLsbD 10 = ksv ∧ w.getLsbD 11 = false ∧ w.extractLsb' 12 3 = mode ∧
      w.getLsbD 15 = false ∧ w.extractLsb' 16 2 = phase ∧ w.extractLsb' 18 6 = 0 ∧ w.extractLsb' 24 6 = nlen ∧
      w.extractLsb' 30 2 = 0 := by
  -- The width stays the sum of the fields' widths, so that the append lemmas see each field's.
  simp [-Nat.reduceAdd, BitVec.getElem_append, BitVec.extractLsb'_append_eq_ite]

/-- Settles O48: the fields of `statusWord`, each code by its register's values. -/
theorem statusFieldsMirrorRegisters : Obligations.StatusFieldsMirrorRegisters := by
  intro s hb
  have hread : hostRead s 32 0x004 = .ok (statusWord s) := by
    rw [hostRead_reg (r := .status) s rfl (by decide) rfl, readReg, if_neg (by simp [hb])]
  obtain ⟨hbusy, herr, h2, herrc, hklc, hksv, h11, hmode, h15, hphase, h18, hnlen, h30⟩ :=
    statusLayout (.ofNat 6 s.nlen.val) s.phase.code s.mode.code s.ksv s.klen.code s.errc.code s.errc.errBit
  refine ⟨statusWord s, hread, hbusy, herr.trans ?_, h2, herrc.trans ?_, hklc.trans ?_, hksv, h11, hmode.trans ?_,
    h15, hphase.trans ?_, h18, (congrArg BitVec.toNat hnlen).trans ?_, h30⟩
  · cases s.errc <;> rfl
  · cases s.errc <;> rfl
  · cases s.klen <;> rfl
  · cases s.mode <;> rfl
  · cases s.phase <;> rfl
  · exact Nat.mod_eq_of_lt (lt_trans s.nlen.isLt (by decide))

/-- Settles O54: a host read and the observation go through `readReg` and DMEM only. -/
theorem hostReadsRevealNoSecret : Obligations.HostReadsRevealNoSecret := by
  intro s u bits off hs hu h
  have hreg : readReg s = readReg u := funext (readReg_congr h hs hu)
  have hsize : s.dmemSize = u.dmemSize := congrArg Config.dmemSize h.cfg
  constructor
  · rw [hostRead, hostRead, hreg, hsize, h.dmem]
  · rw [State.observe, State.observe, hreg, h.dmem, h.klen, h.ksv, h.mode, h.phase, h.nlen]

/-- Settles O50: the step is the host's write of CMD, which is `State.issue`, and CMD reads as 0 by `readReg`. -/
theorem cmdWriteIssuesCommand : Obligations.CmdWriteIssuesCommand := by
  intro s w rest hb
  have hw : hostWrite s 32 0x008 w = .ok (s.issue w) := rfl
  have hr : hostRead s 32 0x008 = .ok 0 := hostRead_reg (r := .cmd) s rfl (by decide) rfl
  refine ⟨fun hi => ⟨(s.issue w).accessed rest, ?_, rfl, rfl, rfl⟩, hr⟩
  simp [step, turn, hostStep, hostIdle, hi, hb, hw]

/-! # Who moves -/

theorem step_of_engine (h : turn s = .engine) : step s = engineStep s := by rw [step, h]

theorem engineStep_of_decode {i : Instr} (h : decode s.latch = .ok i) : engineStep s = exec i s := by
  rw [engineStep, h]

theorem decode_of_decodeTableWord {n w : Nat} {i : Instr} (h : decodeTableWord n w = some i) :
    decode (wordOfTable n w) = .ok i := by
  unfold decodeTableWord at h
  split at h
  · rw [← Option.some.inj h]; assumption
  · exact absurd h (by simp)

/-- Settles O37: in the first and the third case `turn` is the engine's and LATCH decodes to i; in the second it is
idle. -/
theorem stepExecutesLatchedCommand : Obligations.StepExecutesLatchedCommand := by
  refine ⟨fun s i hb hd _ hin => ?_, fun s hb hin => by simp [step, turn, hin, hb], fun s w i hw => ?_⟩
  · have ht : turn s = .engine := by
      rcases hin with hin | ⟨e, rest, hin, hr, hp⟩
      · simp [turn, hin, hb]
      · simp [turn, hin, hb, hr, hp]
    rw [step_of_engine ht, engineStep_of_decode hd]
  · rw [step_of_engine rfl, engineStep_of_decode (decode_of_decodeTableWord hw)]

end Sys2Proof.Machine

namespace Sys2Proof.Machine
open Sys2Proof

/-! Proofs of the family 20_memory.md: what a command stores, the form of DMEM, and the host accesses with BUSY = 0. -/

variable {s t u : State}

/-! # What a command stores -/

theorem State.dmemSize_le (s : State) : s.dmemSize ≤ 65536 := by
  have := s.cfg.extraBlocks.isLt
  unfold State.dmemSize Config.dmemSize
  omega

/-- A range inside DMEM has a length that OUTLEN holds (10_state.md R39). -/
theorem State.inBounds.length_lt {a : U32} {n : Nat} (h : s.inBounds a n) : n < 2 ^ 32 := by
  have := s.dmemSize_le
  rcases h with h | h <;> omega

theorem State.inBounds.mono {a : U32} {m n : Nat} (h : s.inBounds a n) (hmn : m ≤ n) : s.inBounds a m := by
  rcases h with h | h
  · exact .inl (by omega)
  · exact .inr (by omega)

/-- `Stores s i t`: t, which the command i answers in the state s, has the DMEM and OUTLEN of an error, of a success
that stores nothing, or of a success that stores v at A.DST (20_memory.md R77, R79, 10_state.md R39). -/
inductive Stores (s : State) (i : Instr) (t : State) : Prop
  | failed (he : t.errc ≠ .none) (hd : t.dmem = s.dmem) (hn : t.outlen = 0)
  | kept (hi : storesToDmem i = false) (he : t.errc = .none) (hd : t.dmem = s.dmem) (hn : t.outlen = 0)
  | stored (v : Bytes) (hi : storesToDmem i = true) (he : t.errc = .none) (hb : s.inBounds s.args.dst v.length)
      (hd : t.dmem = s.dmem.write s.args.dst.toNat v) (hn : t.outlen = BitVec.ofNat 32 v.length)

/-- r is an answer of the command i in the state s that stores what `Stores` says. -/
def EndsStoring (s : State) (i : Instr) (r : Result) : Prop := ∀ t, r = .next t → Stores s i t

section
variable {i : Instr} {e : ErrCode} {k : Result}

theorem EndsStoring.finish (hi : storesToDmem i = false := by rfl) (hd : u.dmem = s.dmem := by rfl) :
    EndsStoring s i (finish 0 u) := fun _ ht => by
  rw [finish_next ht]
  exact .kept hi rfl hd rfl

theorem EndsStoring.finishWrite {n : Nat} {v : Bytes} (hv : v.length = n) (hb : s.inBounds s.args.dst n)
    (hi : storesToDmem i = true := by rfl) (hd : u.dmem = s.dmem := by rfl) :
    EndsStoring s i (finishWrite n s.args.dst v u) := fun _ ht => by
  subst hv
  rw [finishWrite_next ht]
  exact .stored v hi rfl hb (by simp [hd]) rfl

theorem EndsStoring.require {c : Prop} [Decidable c] (hk : c → EndsStoring s i k) (he : e ≠ .none := by decide)
    (hd : u.dmem = s.dmem := by rfl) : EndsStoring s i (require c e u k) := fun t ht => by
  rcases require_next ht with ⟨hc, ht⟩ | ⟨_, rfl⟩
  · exact hk hc t ht
  · exact .failed he hd rfl

theorem EndsStoring.memRead {a : U32} {n : Nat} {k : Bytes → Result}
    (hk : ∀ v, v.length = n → EndsStoring s i (k v)) : EndsStoring s i (memRead s a n k) := fun t ht => by
  obtain ⟨v, _, hv, ht⟩ := memRead_next ht
  exact hk v hv t ht

end

/-! ## The lengths of the outputs -/

theorem xorBytes_keystream_length {d : Bytes} {n : Nat} (ks : Nat → Byte) (k : Nat) (hd : d.length = n) :
    (xorBytes d (keystreamSlice ks k n)).length = n := by
  simp [hd]

theorem cbcEncrypt_length {enc : Bytes → Bytes} (henc : ∀ b, (enc b).length = 16) (c : Bytes) (bs : List Bytes) :
    (cbcEncrypt enc c bs).1.length = 16 * bs.length := by
  induction bs generalizing c with
  | nil => rfl
  | cons b bs ih => simp [cbcEncrypt, henc, ih]; omega

theorem cbcDecrypt_length_le {dec : Bytes → Bytes} (hdec : ∀ b, (dec b).length = 16) (c : Bytes) (bs : List Bytes) :
    (cbcDecrypt dec c bs).1.length ≤ 16 * bs.length := by
  induction bs generalizing c with
  | nil => exact Nat.le_refl _
  | cons b bs ih =>
    have := ih b
    simp [cbcDecrypt, hdec]
    omega

/-- With the padding check passed, CBC_ENC writes whole blocks (44_cbc.md R232). -/
theorem cbcOutLen_mod {padded : Bool} {n : Nat} (h : padded = false → n % 16 = 0) : cbcOutLen padded n % 16 = 0 := by
  cases padded with
  | false => exact h rfl
  | true => simp only [cbcOutLen, if_true]; omega

theorem pkcs7Unpad_length_le (q : Bytes) : (pkcs7Unpad q).length ≤ q.length := List.length_take_le' _ _

theorem gcmTag_length (s : State) {tl : Nat} (h : tagLenOk tl) : (s.gcmTagNow.take (tagLen tl)).length = tagLen tl := by
  have hle : ∀ n ∈ Config.gcmTagLengths, n ≤ 16 := by decide
  have htag : s.gcmTagNow.length = 16 := gcmFullTag_length _ _ _ _ _ _ _ (by simp)
  rw [List.length_take, htag]
  exact Nat.min_eq_left (hle _ h)

/-! ## The commands that store -/

theorem endsStoring_aesBlock {i : Instr} {f : Bytes → Bytes} (hf : ∀ b, (f b).length = 16)
    (hi : storesToDmem i = true) : EndsStoring s i (aesBlockCommand f s) :=
  .require fun _ => .require fun ⟨_, hb⟩ => .memRead fun _ _ => .finishWrite (hf _) hb hi

theorem endsStoring_gcmText {i : Instr} (f : Bytes → Bytes → Bytes) (last : Bool) (hi : storesToDmem i = true) :
    EndsStoring s i (gcmTextCommand f last s) :=
  .require fun _ => .require fun _ => .require fun ⟨_, hb⟩ => .require fun _ => .memRead fun _ hd =>
    .finishWrite (xorBytes_keystream_length _ _ hd) hb hi

theorem endsStoring_cpText {i : Instr} (f : Bytes → Bytes → Bytes) (last : Bool) (hi : storesToDmem i = true) :
    EndsStoring s i (cpTextCommand f last s) :=
  .require fun _ => .require fun _ => .require fun ⟨_, hb⟩ => .require fun _ => .memRead fun _ hd =>
    .finishWrite (xorBytes_keystream_length _ _ hd) hb hi

theorem endsStoring_cbcEnc (last pad : Bool) : EndsStoring s (.cbcEnc last pad) (execCbcEnc last pad s) :=
  .require fun _ => .require fun hp => .require fun ⟨_, hb⟩ => .memRead fun _ _ =>
    .finishWrite (by
      have := cbcOutLen_mod hp
      rw [cbcEncrypt_length (enc := s.aesEnc) fun _ => aesEncrypt_length _ _ _, blocks16_length]
      omega) hb

theorem endsStoring_cbcDec (last pad : Bool) : EndsStoring s (.cbcDec last pad) (execCbcDec last pad s) :=
  .require fun _ => .require fun _ => .require fun _ => .require fun ⟨_, hb⟩ => .memRead fun q _ => .require fun _ =>
    .finishWrite rfl (hb.mono (by
      have hlen := cbcDecrypt_length_le (fun b => aesDecrypt_length s.rk.toList s.nr b) s.ctx.chain.toList
        (blocks16 (s.argLen / 16) q)
      rw [blocks16_length] at hlen
      have hle := hlen.trans (Nat.mul_div_le _ _)
      split
      · exact (pkcs7Unpad_length_le _).trans hle
      · exact hle))

/-- Everything a command can do to DMEM: its checks in the order of its rule, its reads, and its one MemWrite. -/
theorem exec_endsStoring (i : Instr) (s : State) : EndsStoring s i (exec i s) :=
  match i with
  | .nop | .zeroize => .finish
  | .keyld _ | .nonceld => .require fun _ => .require fun _ => .memRead fun _ _ => .finish
  | .aesKeyexp => .require fun _ => .finish
  | .aesEnc => endsStoring_aesBlock (fun _ => aesEncrypt_length _ _ _) rfl
  | .aesDec => endsStoring_aesBlock (fun _ => aesDecrypt_length _ _ _) rfl
  | .chachaBlk => .require fun _ => .require fun _ => .require fun hb => .finishWrite (chachaBlock_length _ _ _) hb
  | .hchacha => .require fun _ => .require fun ⟨_, hb⟩ => .memRead fun _ _ => .finishWrite (hChacha20_length _ _) hb
  | .chachaInit _ => .require fun _ => .require fun _ => .require fun _ => .finish
  | .chachaXor | .ctrXor =>
    .require fun _ => .require fun ⟨_, hb⟩ => .require fun _ => .memRead fun _ hd =>
      .finishWrite (xorBytes_keystream_length _ _ hd) hb
  | .ctrInit _ => .require fun _ => .require fun _ => .require fun _ => .require fun _ => .finish
  | .cbcInit | .gcmInit | .cpInit _ => .require fun _ => .require fun _ => .finish
  | .cbcEnc last pad => endsStoring_cbcEnc last pad
  | .cbcDec last pad => endsStoring_cbcDec last pad
  | .gf128Mul => .require fun ⟨_, _, hb⟩ => .memRead fun _ _ => .memRead fun _ _ => .finishWrite (gfMul_length _ _) hb
  | .gcmAad _ | .cpAad _ =>
    .require fun _ => .require fun _ => .require fun _ => .require fun _ => .memRead fun _ _ => .finish
  | .gcmEnc last => endsStoring_gcmText (fun _ o => o) last rfl
  | .gcmDec last => endsStoring_gcmText (fun d _ => d) last rfl
  | .cpEnc last => endsStoring_cpText (fun _ o => o) last rfl
  | .cpDec last => endsStoring_cpText (fun d _ => d) last rfl
  | .gcmTag _ => .require fun _ => .require fun ht => .require fun hb => .finishWrite (gcmTag_length s ht) hb
  | .gcmVerify _ =>
    .require fun _ => .require fun _ => .require fun _ => .memRead fun _ _ => .require fun _ => .finish
  | .gcmOpen _ =>
    .require fun _ => .require fun _ => .require fun _ => .require fun ⟨_, _, _, hb⟩ => .memRead fun _ _ =>
      .memRead fun _ hc => .memRead fun _ _ => .require fun _ => .finishWrite (xorBytes_keystream_length _ _ hc) hb
  | .poly1305 =>
    .require fun ⟨_, _, hb⟩ => .memRead fun _ _ => .memRead fun _ _ => .finishWrite (polyFinish_length _ _) hb
  | .cpTag => .require fun _ => .require fun hb => .finishWrite (polyFinish_length _ _) hb
  | .cpVerify => .require fun _ => .require fun _ => .memRead fun _ _ => .require fun _ => .finish
  | .cpOpen _ =>
    .require fun _ => .require fun _ => .require fun ⟨_, _, _, hb⟩ => .memRead fun _ _ =>
      .memRead fun _ hc => .memRead fun _ _ => .require fun _ => .finishWrite (xorBytes_keystream_length _ _ hc) hb

/-- Settles O45: `exec_endsStoring` says which of three ways a command ends in, and the MemWrite of a success covers
the OUTLEN bytes from A.DST. -/
theorem commandsStoreOnlyTheirRange : Obligations.CommandsStoreOnlyTheirRange := by
  intro i s t h
  cases exec_endsStoring i s t h with
  | failed he hd hn =>
    exact ⟨fun _ => ⟨hd, hn⟩, fun _ => ⟨hd, hn⟩, fun a _ => by rw [hd], fun _ h => absurd h he⟩
  | kept hi he hd hn =>
    exact ⟨fun _ => ⟨hd, hn⟩, fun _ => ⟨hd, hn⟩, fun a _ => by rw [hd], by simp [hi]⟩
  | stored v hi he hb hd hn =>
    have hlen : t.outlen.toNat = v.length := by rw [hn]; exact Nat.mod_eq_of_lt hb.length_lt
    refine ⟨by simp [hi], fun h => absurd he h, fun a ha => ?_, fun _ _ => ⟨v, hlen.symm, hd, hb⟩⟩
    rw [hd]
    rw [hlen] at ha
    exact ha.elim (Memory.read_write_of_lt _ _) (Memory.read_write_of_ge _ _)

/-! # The form of DMEM -/

theorem DmemInv.congr (hs : DmemInv s) (hc : t.cfg = s.cfg) (hd : t.dmem = s.dmem) : DmemInv t := by
  constructor
  · rw [hd]; exact hs.wf
  · rw [hd, State.dmemSize, hc]; exact hs.below

theorem DmemInv.write {a : Nat} {v : Bytes} (hs : DmemInv s) (hv : v = [] ∨ a + v.length ≤ s.dmemSize)
    (hc : t.cfg = s.cfg) (hd : t.dmem = s.dmem.write a v) : DmemInv t := by
  constructor
  · rw [hd]; exact Memory.write_wf a v hs.wf
  · rw [hd, State.dmemSize, hc]; exact Memory.write_below hs.below hv

theorem dmemInv_platformReset (s : State) (rest : List Input) : DmemInv { s.platformReset with inputs := rest } :=
  ⟨rfl, rfl⟩

theorem exec_dmemInv {i : Instr} (hs : DmemInv s) (h : exec i s = .next t) : DmemInv t := by
  obtain ⟨_, hcfg, _⟩ := commandsKeepOtherRegisters i s t h
  cases exec_endsStoring i s t h with
  | failed _ hd _ | kept _ _ hd _ => exact hs.congr hcfg hd
  | stored v _ _ hb hd _ => exact hs.write (hb.imp_left List.eq_nil_of_length_eq_zero) hcfg hd

/-- An aligned host access that starts inside DMEM ends inside it, since DMEM_SIZE is a multiple of 16 (00_scope.md
R4). -/
theorem aligned_le_dmemSize (s : State) {bits a : Nat} (hb : bits = 8 ∨ bits = 16 ∨ bits = 32)
    (ha : a % (bits / 8) = 0) (h : a < s.dmemSize) : a + bits / 8 ≤ s.dmemSize := by
  unfold State.dmemSize Config.dmemSize at h ⊢
  rcases hb with rfl | rfl | rfl <;> omega

theorem hostWrite_dmemInv {bits off : Nat} {v : U32} (hs : DmemInv s) (h : hostWrite s bits off v = .ok t) :
    DmemInv t := by
  rcases hostWrite_ok h with rfl | rfl | ⟨_, rfl⟩ | ⟨hlt, hb, ha, hoff, rfl⟩
  · exact hs
  · exact hs.congr rfl rfl
  · exact hs.congr rfl rfl
  · have ha' : (off - dmemWindow) % (bits / 8) = 0 := by
      unfold dmemWindow at hoff ⊢
      rcases hb with rfl | rfl | rfl <;> omega
    have hend := aligned_le_dmemSize s hb ha' hlt
    exact hs.write (.inr (by rwa [leBytes_length])) rfl rfl

/-- Settles O56: a command's MemWrite is inside DMEM, and so is an aligned host write that starts there; each keeps the
canonical form, and a reset leaves no byte. -/
theorem stepKeepsDmemInv : Obligations.StepKeepsDmemInv := by
  intro s t hs h
  rcases step_next h with ⟨_, h⟩ | ⟨_, rest, _, _, h⟩ | ⟨_, rest, _, _, h⟩ | ⟨_, _, rfl⟩
  · rcases engineStep_next h with ⟨i, _, h⟩ | rfl
    · exact exec_dmemInv hs h
    · exact hs.congr rfl rfl
  · rcases hostBusy_next h with ⟨_, _, rfl⟩ | ⟨_, rfl⟩
    · exact hs.congr rfl rfl
    · exact dmemInv_platformReset s rest
  · rcases hostIdle_next h with ⟨_, rfl⟩ | ⟨_, _, _, u, _, hu, rfl⟩ | ⟨_, rfl⟩
    · exact hs.congr rfl rfl
    · exact (hostWrite_dmemInv hs hu).congr rfl rfl
    · exact dmemInv_platformReset s rest
  · exact hs

/-! # The host accesses -/

theorem accessLegal_reg {bits off : Nat} (hoff : off < dmemWindow) :
    accessLegal bits off ↔ bits = 32 ∧ off % 4 = 0 := by
  rw [accessLegal, if_pos hoff]

theorem accessLegal_dmem {bits a : Nat} :
    accessLegal bits (0x10000 + a) ↔ (bits = 8 ∨ bits = 16 ∨ bits = 32) ∧ a % (bits / 8) = 0 := by
  rw [accessLegal, if_neg (by simp [dmemWindow])]
  refine and_congr_right fun hb => ?_
  rcases hb with rfl | rfl | rfl <;> omega

/-- An access of illegal width or alignment is a model fault (20_memory.md R73). -/
theorem host_busAccess {bits off : Nat} (s : State) (v : U32) (h : ¬ accessLegal bits off) :
    hostRead s bits off = .error .busAccess ∧ hostWrite s bits off v = .error .busAccess :=
  ⟨if_pos h, if_pos h⟩

/-! ## The register window (10_state.md section 2) -/

theorem HostReg.offset_lt (r : HostReg) : r.offset < 0x030 := by cases r <;> decide

theorem regAt_reserved {off : Nat} (h : 0x030 ≤ off) : regAt off = none := by
  refine List.find?_eq_none.mpr fun r _ => ?_
  have := r.offset_lt
  simp only [beq_iff_eq]
  omega

/-- A reserved offset reads 0 and ignores writes (20_memory.md R71). -/
theorem host_reserved {off : Nat} (s : State) (v : U32) (hoff : off < dmemWindow) (ha : off % 4 = 0)
    (h : 0x030 ≤ off) : hostRead s 32 off = .ok 0 ∧ hostWrite s 32 off v = .ok s := by
  have hl : accessLegal 32 off := (accessLegal_reg hoff).mpr ⟨rfl, ha⟩
  simp [hostRead, hostWrite, hl, hoff, regAt_reserved h]

theorem hostRead_offset (s : State) (r : HostReg) : hostRead s 32 r.offset = .ok (readReg s r) := by
  cases r <;> rfl

theorem hostWrite_offset (s : State) (v : U32) (r : HostReg) : hostWrite s 32 r.offset v = .ok (writeReg s v r) := by
  cases r <;> rfl

/-- The aligned offsets from 0x010 to 0x02C are those of the argument registers. -/
theorem exists_offset {off : Nat} (ha : off % 4 = 0) (hlo : 0x010 ≤ off) (hhi : off < 0x030) :
    ∃ r : HostReg, r.offset = off := by
  have : off = 0x010 ∨ off = 0x014 ∨ off = 0x018 ∨ off = 0x01C ∨ off = 0x020 ∨ off = 0x024 ∨ off = 0x028 ∨
    off = 0x02C := by omega
  rcases this with rfl | rfl | rfl | rfl | rfl | rfl | rfl | rfl
  exacts [⟨.src, rfl⟩, ⟨.dst, rfl⟩, ⟨.len, rfl⟩, ⟨.aad, rfl⟩, ⟨.aadlen, rfl⟩, ⟨.tag, rfl⟩, ⟨.aux0, rfl⟩, ⟨.aux1, rfl⟩]

/-- A write of an argument register changes the argument registers only. -/
theorem writeReg_args {r : HostReg} (s : State) (v : U32) (hr : 0x010 ≤ r.offset) :
    writeReg s v r = { s with args := (writeReg s v r).args } := by
  cases r with
  | id | status | cmd | outlen => exact absurd hr (by decide)
  | _ => rfl

/-- What each register reads after a write of an argument register. -/
theorem readReg_writeReg {r : HostReg} (s : State) (v : U32) (hr : 0x010 ≤ r.offset) (r' : HostReg) :
    readReg (writeReg s v r) r' = if r' = r then v else readReg s r' := by
  cases r with
  | id | status | cmd | outlen => exact absurd hr (by decide)
  | _ => cases r' <;> rfl

/-- Settles O51: an aligned offset below 0x030 is a register's, read by `readReg` and written by `writeReg`. -/
theorem registerWindowAccesses : Obligations.RegisterWindowAccesses := by
  intro s v off _ hoff
  refine ⟨fun bits h => host_busAccess s v (mt (accessLegal_reg hoff).mp h), fun ha h => host_reserved s v hoff ha h,
    ?ignored, ?id, ?outlen, ?src, ?dst, ?len, ?aad, ?aadlen, ?tag, ?aux0, ?aux1, fun ha hlo hhi => ?frame⟩
  case ignored => rintro (rfl | rfl | rfl) <;> rfl
  case id | outlen => rintro rfl; rfl
  case frame =>
    obtain ⟨r, rfl⟩ := exists_offset ha hlo hhi
    refine ⟨writeReg s v r, hostWrite_offset s v r, writeReg_args s v hlo, ?_, fun off' ha' hlo' hhi' hne => ?_⟩
    · rw [hostRead_offset, readReg_writeReg s v hlo, if_pos rfl]
    · obtain ⟨r', rfl⟩ := exists_offset ha' hlo' hhi'
      have hne : r' ≠ r := fun h => hne (congrArg HostReg.offset h)
      rw [hostRead_offset, hostRead_offset, readReg_writeReg s v hlo, if_neg hne]
  case src | dst | len | aad | aadlen | tag | aux0 | aux1 => rintro rfl; exact ⟨rfl, rfl⟩

/-! ## Byte strings and their little-endian values (00_scope.md R8) -/

theorem pow_256 (k : Nat) : 256 ^ k = 2 ^ (8 * k) := by rw [Nat.pow_mul]

/-- Byte k of a little-endian value. -/
theorem le_byte {b : Bytes} {k : Nat} (h : k < b.length) : le b / 256 ^ k % 256 = b[k].toNat := by
  induction b generalizing k with
  | nil => exact absurd h (by simp)
  | cons x b ih =>
    have hx : x.toNat < 256 := x.isLt
    cases k with
    | zero => simp only [le, pow_zero, Nat.div_one, List.getElem_cons_zero]; omega
    | succ k =>
      have hdiv : (x.toNat + 256 * le b) / 256 = le b := by omega
      rw [le, Nat.pow_succ', ← Nat.div_div_eq_div_mul, hdiv, ih (by simpa using h), List.getElem_cons_succ]

theorem leBytes_getElem {n v k : Nat} (h : k < (leBytes n v).length) :
    (leBytes n v)[k] = BitVec.ofNat 8 (v / 256 ^ k) := by
  induction n generalizing v k with
  | zero => exact absurd h (by simp [leBytes])
  | succ n ih =>
    cases k with
    | zero => simp [leBytes]
    | succ k =>
      have hk : k < (leBytes n (v / 256)).length := by simpa [leBytes] using h
      rw [Nat.pow_succ', ← Nat.div_div_eq_div_mul, ← ih hk]
      rfl

/-- Byte k of a word. -/
theorem extractByte (v : U32) (k : Nat) : v.extractLsb' (8 * k) 8 = BitVec.ofNat 8 (v.toNat / 256 ^ k) := by
  rw [BitVec.extractLsb', Nat.shiftRight_eq_div_pow, pow_256]

/-- A word made of at most four bytes has these bytes. -/
theorem extractByte_le {b : Bytes} {k : Nat} (hb : b.length ≤ 4) (h : k < b.length) :
    (BitVec.ofNat 32 (le b)).extractLsb' (8 * k) 8 = b[k] := by
  have hlt : le b < 2 ^ 32 := lt_of_lt_of_le (le_lt b) (Nat.pow_le_pow_right (n := 256) (by decide) hb)
  apply BitVec.eq_of_toNat_eq
  rw [extractByte, BitVec.toNat_ofNat, BitVec.toNat_ofNat, Nat.mod_eq_of_lt hlt]
  exact le_byte h

/-! ## The DMEM window (20_memory.md R71, R75, R76) -/

/-- MemRead answers none where a byte of its range is unwritten. -/
theorem Memory.readBytes_eq_none {m : Memory} {a n k : Nat} (hk : k < n) (h : m.read (a + k) = none) :
    m.readBytes a n = none := by
  cases hv : m.readBytes a n with
  | none => rfl
  | some v =>
    obtain rfl := Memory.readBytes_length hv
    rw [Memory.readBytes_eq_some.mp hv k hk] at h
    exact absurd h (by simp)

theorem Memory.readBytes_of_read {m : Memory} {a n : Nat} {b : Nat → Byte}
    (h : ∀ k < n, m.read (a + k) = some (b k)) : m.readBytes a n = some ((List.range n).map b) := by
  have hlen : ((List.range n).map b).length = n := by simp
  have := (Memory.readBytes_eq_some (m := m) (a := a) (v := (List.range n).map b)).mpr fun k hk => by
    simpa using h k (by simpa using hk)
  rwa [hlen] at this

section
variable {bits a : Nat} (hl : (bits = 8 ∨ bits = 16 ∨ bits = 32) ∧ a % (bits / 8) = 0)
include hl

/-- Past DMEM_SIZE a legal access reads 0 and writes nothing (20_memory.md R72). -/
theorem host_dmemTail (v : U32) (ha : s.dmemSize ≤ a) :
    hostRead s bits (0x10000 + a) = .ok 0 ∧ hostWrite s bits (0x10000 + a) v = .ok s := by
  have hlegal := accessLegal_dmem.mpr hl
  simp [hostRead, hostWrite, hlegal, dmemWindow, Nat.not_lt.mpr ha]

theorem hostRead_written {v : Bytes} (ha : a < s.dmemSize) (hv : s.dmem.readBytes a (bits / 8) = some v) :
    hostRead s bits (0x10000 + a) = .ok (BitVec.ofNat 32 (le v)) := by
  have hlegal := accessLegal_dmem.mpr hl
  simp [hostRead, hlegal, dmemWindow, ha, hv]

theorem hostRead_unwritten (ha : a < s.dmemSize) (hv : s.dmem.readBytes a (bits / 8) = none) :
    hostRead s bits (0x10000 + a) = .error .unwrittenDmem := by
  have hlegal := accessLegal_dmem.mpr hl
  simp [hostRead, hlegal, dmemWindow, ha, hv]

theorem hostWrite_dmem (v : U32) (ha : a < s.dmemSize) :
    hostWrite s bits (0x10000 + a) v = .ok { s with dmem := s.dmem.write a (leBytes (bits / 8) v.toNat) } := by
  have hlegal := accessLegal_dmem.mpr hl
  simp [hostWrite, hlegal, dmemWindow, ha]

end

/-- Settles O52: a legal access inside DMEM is a MemRead or a MemWrite of the bytes of a little-endian value. -/
theorem dmemWindowAccesses : Obligations.DmemWindowAccesses := by
  rintro s v a bits _ rfl
  refine ⟨fun h => host_busAccess s v (mt accessLegal_dmem.mp h), fun hb ha => host_dmemTail ⟨hb, ha⟩ v, ?unwritten,
    ?read, ?write⟩
  case unwritten =>
    rintro hb ha hlt ⟨k, hk, hnone⟩
    exact hostRead_unwritten ⟨hb, ha⟩ hlt (Memory.readBytes_eq_none hk hnone)
  case read =>
    intro b hb ha hlt hread
    have hwidth : bits / 8 ≤ 4 ∧ 8 * (bits / 8) = bits := by omega
    have hlen : ((List.range (bits / 8)).map b).length = bits / 8 := by simp
    refine ⟨_, hostRead_written ⟨hb, ha⟩ hlt (Memory.readBytes_of_read hread), fun k hk => ?_, ?_⟩
    · rw [extractByte_le (by rw [hlen]; exact hwidth.1) (by rwa [hlen])]
      simp
    · have := le_lt ((List.range (bits / 8)).map b)
      rw [hlen, pow_256, hwidth.2] at this
      exact lt_of_le_of_lt (Nat.mod_le _ _) this
  case write =>
    intro hb ha hlt
    have hwidth : 8 * (bits / 8) = bits := by omega
    have hlen : (leBytes (bits / 8) v.toNat).length = bits / 8 := leBytes_length _ _
    refine ⟨_, hostWrite_dmem ⟨hb, ha⟩ v hlt, rfl, fun k hk => ?_, fun x hx => ?_, ?_⟩
    · have hget : k < (leBytes (bits / 8) v.toNat).length := by rwa [hlen]
      rw [Memory.read_write, if_pos (by omega), Nat.add_sub_cancel_left, List.getElem?_eq_getElem hget,
        leBytes_getElem hget, extractByte]
    · rw [← hlen] at hx
      exact hx.elim (Memory.read_write_of_lt _ _) (Memory.read_write_of_ge _ _)
    · have hback := Memory.readBytes_write s.dmem a (leBytes (bits / 8) v.toNat)
      rw [hlen] at hback
      rw [hostRead_written (s := { s with dmem := s.dmem.write a _ }) ⟨hb, ha⟩ hlt hback, le_leBytes, pow_256, hwidth]

/-! ## A step of the host with BUSY = 0 -/

theorem step_of_idle {e : Input} {rest : List Input} (hb : s.busy = false) (hi : s.inputs = e :: rest) :
    step s = hostIdle e rest s := by
  simp [step, turn, hostStep, hb, hi]

theorem hostRead_status (hb : s.busy = false) : hostRead s 32 0x004 = .ok (statusWord s) := by
  rw [show (0x004 : Nat) = HostReg.status.offset from rfl, hostRead_offset, readReg, if_neg (by simp [hb])]

/-- A host write with BUSY = 0 leaves every engine register (10_state.md R40, R52). -/
theorem hostWrite_sameEngine {bits off : Nat} {v : U32} (h : hostWrite s bits off v = .ok t) : SameEngine t s := by
  rcases hostWrite_ok h with rfl | rfl | ⟨_, rfl⟩ | ⟨_, _, _, _, rfl⟩ <;>
    exact ⟨rfl, rfl, rfl, rfl, rfl, rfl, rfl, rfl, rfl, rfl, rfl, rfl, rfl⟩

theorem SameEngine.accessed (rest : List Input) (h : SameEngine t s) : SameEngine (t.accessed rest) s := { h with }

theorem runEnded_iff {rest : List Input} (hi : t.inputs = rest) (hl : t.lastAccess = .busy0) :
    t.runEnded ↔ rest = [] := by
  rw [State.runEnded, hi, hl, and_iff_left rfl]

/-- Settles O53: with BUSY = 0 a step is `hostIdle`, and an event that is not a reset answers a read or writes by
`hostWrite`. -/
theorem hostAccessesLeaveEngine : Obligations.HostAccessesLeaveEngine := by
  intro s rest hb
  refine ⟨fun bits off hi => ?read, fun bits off v hi => ?write, fun hi => ?wait, fun e t hi hne h => ?frame⟩
  case read =>
    rw [step_of_idle hb hi, hostIdle]
    exact ⟨fun v hv => by rw [hv]; rfl, fun f hf => by rw [hf]⟩
  case write =>
    rw [step_of_idle hb hi, hostIdle]
    exact ⟨fun u hu => by rw [hu]; rfl, fun f hf => by rw [hf]⟩
  case wait => exact ⟨_, rfl, hostRead_status hb, step_of_idle hb hi⟩
  case frame =>
    rw [step_of_idle hb hi] at h
    rcases hostIdle_next h with ⟨v, rfl⟩ | ⟨bits, off, v, u, rfl, hu, rfl⟩ | ⟨rfl, _⟩
    · exact ⟨⟨rfl, rfl, rfl, rfl, rfl, rfl, rfl, rfl, rfl, rfl, rfl, rfl, rfl⟩, fun _ => ⟨v, rfl⟩, runEnded_iff rfl rfl⟩
    · exact ⟨(hostWrite_sameEngine hu).accessed rest, by simp, runEnded_iff rfl rfl⟩
    · exact absurd rfl hne

end Sys2Proof.Machine

namespace Sys2Proof.Machine
open Sys2Proof

/-! Proofs of the family 30_encoding.md: the fields of a command word, the rows of the opcode map and the words that
select them, the decoder as the choice of the selected row, the encoder, and the example words of R109. -/

variable {r : Row} {w : U32} {i : Instr}

/-! # The fields of a word (30_encoding.md R101) -/

/-- A flag written back at its position is the word's bit there. -/
theorem flagAt_getLsbD (w : U32) (pos : Nat) : flagAt (w.getLsbD pos) pos = w &&& 1#32 <<< pos := by
  rw [flagAt, ← BitVec.twoPow_eq, BitVec.and_twoPow]
  rfl

/-- A numeric field written back at its position is the word's bits there. -/
theorem fieldAt_extractLsb' (w : U32) (pos width : Nat) :
    fieldAt (w.extractLsb' pos width).toNat width pos = w &&& BitVec.ofNat 32 (2 ^ width - 1) <<< pos := by
  apply BitVec.eq_of_getLsbD_eq
  intro n hn
  by_cases h : n < pos
  · simp [fieldAt, h]
  · obtain ⟨k, rfl⟩ := Nat.exists_eq_add_of_le (Nat.le_of_not_lt h)
    have hk : k < 32 := by omega
    simp [fieldAt, -BitVec.getLsbD_eq_getElem, BitVec.getLsbD_ofNat, BitVec.testBit_toNat, hn, hk, Bool.and_comm]

/-- A value that fits its field is read back from the field's position. -/
theorem toNat_extractLsb'_fieldAt {v width pos : Nat} (hv : v < 2 ^ width) (hfit : pos + width ≤ 32) :
    ((fieldAt v width pos).extractLsb' pos width).toNat = v := by
  have hlt : v * 2 ^ pos < 2 ^ 32 := calc
    v * 2 ^ pos < 2 ^ width * 2 ^ pos := by gcongr
    _ = 2 ^ (pos + width) := by rw [← Nat.pow_add, Nat.add_comm]
    _ ≤ 2 ^ 32 := Nat.pow_le_pow_right (by decide) hfit
  have h32 : v < 2 ^ 32 := lt_of_le_of_lt (Nat.le_mul_of_pos_right v (Nat.two_pow_pos pos)) hlt
  rw [fieldAt, BitVec.extractLsb'_toNat, BitVec.toNat_shiftLeft, BitVec.toNat_ofNat, Nat.mod_eq_of_lt hv,
    Nat.mod_eq_of_lt h32, Nat.shiftLeft_eq, Nat.mod_eq_of_lt hlt, Nat.shiftRight_eq_div_pow,
    Nat.mul_div_cancel _ (Nat.two_pow_pos pos), Nat.mod_eq_of_lt hv]

/-- The same in a word whose other bits are clear at that position, as an OP's are. -/
theorem toNat_extractLsb'_or_fieldAt {o : U32} {v width pos : Nat} (hv : v < 2 ^ width)
    (ho : o.extractLsb' pos width = 0 := by decide) (hfit : pos + width ≤ 32 := by decide) :
    ((o ||| fieldAt v width pos).extractLsb' pos width).toNat = v := by
  rw [BitVec.extractLsb'_or, ho]
  simpa using toNat_extractLsb'_fieldAt hv hfit

theorem toNat_opOf (w : U32) : (opOf w).toNat = w.toNat % 256 := by
  simp [opOf, BitVec.extractLsb'_toNat]

/-! # The rows of the opcode map (30_encoding.md R103) -/

/-- The word w selects the row r: `(w and mask) = match`. -/
def Selects (w : U32) (r : Row) : Prop := w &&& ~~~r.fieldMask = r.code.setWidth 32

theorem fieldMask_and_op : ∀ r ∈ opcodeTable, r.fieldMask &&& 0xFF = 0 := by decide

/-- Distinct rows have distinct OPs: looking a row up by its own OP finds it. -/
theorem rowOf_code (hr : r ∈ opcodeTable) : rowOf r.code = some r := by
  fin_cases hr <;> rfl

theorem mem_of_rowOf {op : BitVec 8} (h : rowOf op = some r) : r ∈ opcodeTable :=
  List.mem_of_find?_eq_some h

/-- Every command that a row builds has the row's mask and match columns. -/
theorem table_build (hr : r ∈ opcodeTable) (f : Fields) :
    tableMask (r.build f) = ~~~r.fieldMask ∧ tableMatch (r.build f) = r.code.setWidth 32 := by
  fin_cases hr <;> exact ⟨rfl, rfl⟩

theorem wellFormed_build (hr : r ∈ opcodeTable) (w : U32) : (r.build (fieldsOf w)).wellFormed = true := by
  have hkl : klFits (fieldsOf w).kl = true := decide_eq_true (BitVec.isLt _)
  have htl : tlFits (fieldsOf w).tl = true := decide_eq_true (BitVec.isLt _)
  have hcw : cwFits (fieldsOf w).cw = true := decide_eq_true (BitVec.isLt _)
  fin_cases hr <;> simp only [Instr.wellFormed, hkl, htl, hcw]

/-- Every command has a row of its own, and that row builds a well-formed command back from the fields of its word. -/
theorem exists_row (i : Instr) : ∃ r ∈ opcodeTable, tableMask i = ~~~r.fieldMask ∧
    tableMatch i = r.code.setWidth 32 ∧ (i.wellFormed = true → r.build (fieldsOf (encode i)) = i) := by
  suffices h : ∃ r, rowOf (opOf (tableMatch i)) = some r ∧ tableMask i = ~~~r.fieldMask ∧
      tableMatch i = r.code.setWidth 32 ∧ (i.wellFormed = true → r.build (fieldsOf (encode i)) = i) by
    obtain ⟨r, hr, h⟩ := h
    exact ⟨r, mem_of_rowOf hr, h⟩
  cases i with
  | keyld _ =>
    exact ⟨_, rfl, rfl, rfl, fun h => congrArg Instr.keyld (toNat_extractLsb'_or_fieldAt (of_decide_eq_true h))⟩
  | ctrInit _ =>
    exact ⟨_, rfl, rfl, rfl, fun h => congrArg Instr.ctrInit (toNat_extractLsb'_or_fieldAt (of_decide_eq_true h))⟩
  | gcmTag _ =>
    exact ⟨_, rfl, rfl, rfl, fun h => congrArg Instr.gcmTag (toNat_extractLsb'_or_fieldAt (of_decide_eq_true h))⟩
  | gcmVerify _ =>
    exact ⟨_, rfl, rfl, rfl, fun h => congrArg Instr.gcmVerify (toNat_extractLsb'_or_fieldAt (of_decide_eq_true h))⟩
  | gcmOpen _ =>
    exact ⟨_, rfl, rfl, rfl, fun h => congrArg Instr.gcmOpen (toNat_extractLsb'_or_fieldAt (of_decide_eq_true h))⟩
  | chachaInit b | gcmAad b | gcmEnc b | gcmDec b | cpInit b | cpAad b | cpEnc b | cpDec b | cpOpen b =>
    cases b <;> exact ⟨_, rfl, rfl, rfl, fun _ => rfl⟩
  | cbcEnc l p | cbcDec l p => cases l <;> cases p <;> exact ⟨_, rfl, rfl, rfl, fun _ => rfl⟩
  | _ => exact ⟨_, rfl, rfl, rfl, fun _ => rfl⟩

/-- The encoder writes back the OP and the fields that a row builds a command from. -/
theorem encode_build (hr : r ∈ opcodeTable) (w : U32) :
    encode (r.build (fieldsOf w)) = r.code.setWidth 32 ||| w &&& r.fieldMask := by
  have hl : flagAt (fieldsOf w).l 8 = w &&& maskL := flagAt_getLsbD w 8
  have hp : flagAt (fieldsOf w).p 9 = w &&& maskP := flagAt_getLsbD w 9
  have hx : flagAt (fieldsOf w).x 10 = w &&& maskX := flagAt_getLsbD w 10
  have hkl : fieldAt (fieldsOf w).kl 2 12 = w &&& maskKL := fieldAt_extractLsb' w 12 2
  have htl : fieldAt (fieldsOf w).tl 4 16 = w &&& maskTL := fieldAt_extractLsb' w 16 4
  have hcw : fieldAt (fieldsOf w).cw 8 24 = w &&& maskCW := fieldAt_extractLsb' w 24 8
  have hlp : w &&& maskLP = w &&& maskL ||| w &&& maskP := BitVec.and_or_distrib_left (x := w) (y := maskL) (z := maskP)
  fin_cases hr <;> simp [encode, hl, hp, hx, hkl, htl, hcw, hlp, BitVec.or_assoc]

open Laws.Encoding in
/-- The word of a well-formed command selects the command's row. -/
theorem encode_and_tableMask (i : Instr) : Laws.Encoding.Statement i := by
  cases i
  exacts [nop, zeroize, keyld _, nonceld, aesKeyexp, aesEnc, aesDec, chachaBlk, hchacha, chachaInit _, chachaXor,
    ctrInit _, ctrXor, cbcInit, cbcEnc _ _, cbcDec _ _, gf128Mul, gcmInit, gcmAad _, gcmEnc _, gcmDec _, gcmTag _,
    gcmVerify _, gcmOpen _, poly1305, cpInit _, cpAad _, cpEnc _, cpDec _, cpTag, cpVerify, cpOpen _]

/-! # The decoder (30_encoding.md R104, R105, R107) -/

theorem getLsbD_opMask (n : Nat) : (0xFF : U32).getLsbD n = decide (n < 8) := by
  rw [show (0xFF : U32) = (BitVec.allOnes 8).setWidth 32 from rfl, BitVec.getLsbD_setWidth,
    BitVec.getLsbD_allOnes, ← Bool.decide_and]
  exact decide_eq_decide.mpr (by omega)

/-- For a field mask m clear of OP, `(w and mask) = match` is R107's two tests: OP is the row's, and no bit is set
outside OP and the fields. -/
theorem and_not_eq_setWidth_iff {m : U32} {c : BitVec 8} (hm : m &&& 0xFF = 0) :
    w &&& ~~~m = c.setWidth 32 ↔ opOf w = c ∧ w &&& ~~~((0xFF : U32) ||| m) = 0 := by
  have hop := getLsbD_opMask
  generalize (0xFF : U32) = o at *
  have hlow : ∀ n < 8, m.getLsbD n = false := fun n hn => by
    simpa [hop, hn] using congrArg (BitVec.getLsbD · n) hm
  have hhigh : ∀ n, 8 ≤ n → c.getLsbD n = false := fun _ => BitVec.getLsbD_of_ge c _
  have hmatch : w &&& ~~~m = c.setWidth 32 ↔ ∀ n < 32, (w.getLsbD n && !m.getLsbD n) = c.getLsbD n := by
    rw [BitVec.eq_of_getLsbD_eq_iff]
    exact forall₂_congr fun n hn => by simp [hn, -BitVec.getLsbD_eq_getElem]
  have hopOf : opOf w = c ↔ ∀ n < 8, w.getLsbD n = c.getLsbD n := by
    rw [BitVec.eq_of_getLsbD_eq_iff]
    exact forall₂_congr fun n hn => by simp [opOf, hn, -BitVec.getLsbD_eq_getElem]
  have hreserved : w &&& ~~~(o ||| m) = 0 ↔ ∀ n < 32, 8 ≤ n → (w.getLsbD n && !m.getLsbD n) = false := by
    rw [BitVec.eq_of_getLsbD_eq_iff]
    exact forall₂_congr fun n hn => by by_cases h8 : 8 ≤ n <;> simp [hop, hn, h8, -BitVec.getLsbD_eq_getElem]
  rw [hmatch, hopOf, hreserved]
  constructor
  · intro h
    exact ⟨fun n hn => by simpa [hlow n hn] using h n (by omega), fun n hn h8 => by rw [h n hn, hhigh n h8]⟩
  · rintro ⟨hlo, hhi⟩ n hn
    by_cases h8 : n < 8
    · rw [hlow n h8, hlo n h8, Bool.not_false, Bool.and_true]
    · rw [hhi n hn (by omega), hhigh n (by omega)]

theorem selects_iff (hr : r ∈ opcodeTable) :
    Selects w r ↔ opOf w = r.code ∧ w &&& ~~~((0xFF : U32) ||| r.fieldMask) = 0 :=
  and_not_eq_setWidth_iff (fieldMask_and_op r hr)

theorem decode_of_rowOf (h : rowOf (opOf w) = some r) :
    decode w = if w &&& ~~~((0xFF : U32) ||| r.fieldMask) = 0 then .ok (r.build (fieldsOf w))
      else .error .reservedBits := by
  rw [decode, h]

/-- A word that selects a row decodes to the command that the row builds from its fields. -/
theorem decode_of_selects (hr : r ∈ opcodeTable) (h : Selects w r) : decode w = .ok (r.build (fieldsOf w)) := by
  obtain ⟨hop, hbits⟩ := (selects_iff hr).mp h
  rw [decode_of_rowOf (hop ▸ rowOf_code hr), if_pos hbits]

/-- Every decoded command was built by a row that the word selects. -/
theorem exists_selects_of_decode (h : decode w = .ok i) :
    ∃ r ∈ opcodeTable, Selects w r ∧ r.build (fieldsOf w) = i := by
  cases hrow : rowOf (opOf w) with
  | none => simp [decode, hrow] at h
  | some r =>
    have hr := mem_of_rowOf hrow
    have hop : r.code = opOf w := by simpa using List.find?_some hrow
    rw [decode_of_rowOf hrow] at h
    split at h
    case isTrue hbits => exact ⟨r, hr, (selects_iff hr).mpr ⟨hop.symm, hbits⟩, Except.ok.inj h⟩
    case isFalse => cases h

/-- A word with a row's OP that does not select the row has a reserved bit set (30_encoding.md R104). -/
theorem decode_reservedBits (hr : r ∈ opcodeTable) (hop : opOf w = r.code) (h : ¬ Selects w r) :
    decode w = .error .reservedBits := by
  rw [selects_iff hr, and_iff_right hop] at h
  rw [decode_of_rowOf (hop ▸ rowOf_code hr), if_neg h]

/-- A word whose OP is no row's has an unassigned OP (30_encoding.md R105). -/
theorem decode_unassignedOp (h : (opOf w).toNat ∉ opcodeTable.map fun r => r.code.toNat) :
    decode w = .error .unassignedOp := by
  have hrow : rowOf (opOf w) = none := List.find?_eq_none.mpr fun r hr hop =>
    h (List.mem_map.mpr ⟨r, hr, congrArg BitVec.toNat (eq_of_beq hop)⟩)
  rw [decode, hrow]

/-- The decoder agrees with the mask and match columns (30_encoding.md R103, R107). -/
theorem and_tableMask_of_decode (h : decode w = .ok i) : w &&& tableMask i = tableMatch i := by
  obtain ⟨r, hr, hsel, rfl⟩ := exists_selects_of_decode h
  obtain ⟨hmask, hmatch⟩ := table_build hr (fieldsOf w)
  rw [hmask, hmatch, hsel]

/-- The OP of a word that selects a command's row is the low byte of the match column. -/
theorem tableMatch_eq_of_and_tableMask (h : w &&& tableMask i = tableMatch i) :
    tableMatch i = (opOf w).setWidth 32 := by
  obtain ⟨r, hr, hmask, hmatch, _⟩ := exists_row i
  have hsel : Selects w r := by rwa [hmask, hmatch] at h
  rw [hmatch, ((selects_iff hr).mp hsel).1]

/-- Settles O39: the word of i selects the row of i, and that row builds i from the fields of the word. -/
theorem decodeOfEncode : Obligations.DecodeOfEncode := by
  intro i hi
  obtain ⟨r, hr, hmask, hmatch, hbuild⟩ := exists_row i
  have hsel : Selects (encode i) r := by
    rw [Selects, ← hmask, ← hmatch]
    exact encode_and_tableMask i hi
  rw [decode_of_selects hr hsel, hbuild hi]

/-- Settles O40: w is its OP and its fields, since it selects the row that built i, and the encoder writes these. -/
theorem encodeOfDecode : Obligations.EncodeOfDecode := by
  intro w i h
  obtain ⟨r, hr, hsel, rfl⟩ := exists_selects_of_decode h
  refine ⟨wellFormed_build hr w, ?_⟩
  calc encode (r.build (fieldsOf w))
      = w &&& ~~~r.fieldMask ||| w &&& r.fieldMask := by rw [encode_build hr, hsel]
    _ = w &&& BitVec.allOnes 32 := by rw [← BitVec.and_or_distrib_left, BitVec.not_or_self]
    _ = w := BitVec.and_allOnes

/-- Settles O41: a decoded command was built by the row that the word selects, a selected row builds a command, and a
word has one OP. -/
theorem decodeMatchesOpcodeMap : Obligations.DecodeMatchesOpcodeMap := by
  refine ⟨fun w i => and_tableMask_of_decode, fun w j h => ?_, fun w i j hi hj => ?_⟩
  · obtain ⟨r, hr, hmask, hmatch, _⟩ := exists_row j
    obtain ⟨hmask', hmatch'⟩ := table_build hr (fieldsOf w)
    have hsel : Selects w r := by rwa [hmask, hmatch] at h
    exact ⟨_, decode_of_selects hr hsel, hmatch'.trans hmatch.symm, hmask'.trans hmask.symm⟩
  · rw [tableMatch_eq_of_and_tableMask hi, tableMatch_eq_of_and_tableMask hj]

/-! # Illegal words (30_encoding.md R104, R105) -/

/-- The engine raises ILLEGAL on a word that decodes to no command. -/
theorem engineStep_illegal {s : State} (h : ∀ i, decode s.latch ≠ .ok i) :
    engineStep s = .next { s with errc := .illegal, outlen := 0, busy := false } := by
  rw [engineStep]
  split
  case h_1 i hi => exact absurd hi (h i)
  case h_2 => rfl

/-- Settles O42: an OP outside the map has no row, an assigned OP whose row the word does not select has a reserved bit,
and the engine's step on a word that decodes to no command is ILLEGAL. -/
theorem illegalWordsRaiseIllegal : Obligations.IllegalWordsRaiseIllegal := by
  intro w
  refine ⟨fun h => decode_unassignedOp (by rwa [toNat_opOf]), fun j hop h => ?_, fun s hb hin hw h => ?_⟩
  · obtain ⟨r, hr, hmask, hmatch, _⟩ := exists_row j
    have hcode : opOf w = r.code := by
      apply BitVec.eq_of_toNat_eq
      rw [toNat_opOf, hop, hmatch, BitVec.toNat_setWidth]
      omega
    rw [hmask, hmatch] at h
    exact decode_reservedBits hr hcode h
  · subst hw
    have hturn : turn s = .engine := by simp [turn, hin, hb]
    rw [step_of_engine hturn, engineStep_illegal fun i hi => h i (and_tableMask_of_decode hi)]

/-! # The example words of the assembler rule (30_encoding.md R109) -/

/-- Settles O38: the lines and words are concrete. -/
theorem specWordsDecode : Obligations.SpecWordsDecode := by
  unfold Obligations.SpecWordsDecode
  decide

end Sys2Proof.Machine

namespace Sys2Proof.Machine
open Sys2Proof

/-! Proofs of the family 40_control.md: which words of an OP are illegal, how a command ends from its last check and its
MemRead on, and the rules of NOP, ZEROIZE, KEYLD and NONCELD. -/

variable {s : State} {i : Instr}

/-! # The words of an OP (30_encoding.md R104) -/

/-- A word with the OP of j is illegal unless it selects the row of j. -/
theorem illegalOutside_table (j : Instr) : IllegalOutside (tableMatch j).toNat (tableMask j) := by
  intro s hop hbits
  obtain ⟨_, hreserved, _⟩ := illegalWordsRaiseIllegal s.latch
  have hdecode := hreserved j hop fun h => hbits (congrArg BitVec.toNat h)
  exact engineStep_illegal fun i hi => nomatch hdecode.symm.trans hi

/-! # The last check of a command and its MemRead (00_scope.md R9, 20_memory.md R76) -/

section
variable {c : Prop} [Decidable c] {e : ErrCode} {a : U32} {n : Nat} {v : Bytes} {k : Bytes → Result}

theorem raises_of_not_check (h : exec i s = require c e s (memRead s a n k)) (hc : ¬ c) : Raises i s e := by
  rw [Raises, h, require_of_not hc, raiseErr_eq]

theorem faultsUnwritten_of_check (h : exec i s = require c e s (memRead s a n k)) (hc : c)
    (hv : s.Unwritten a n) : FaultsUnwritten i s := by
  rw [FaultsUnwritten, h, require_of hc, memRead_of_none hv]

theorem exec_of_check (h : exec i s = require c e s (memRead s a n k)) (hc : c) (hv : s.Holds a n v) :
    exec i s = k v := by
  rw [h, require_of hc, memRead_of hv]

end

/-- A register given at most its width holds the bytes it is given, then zeros. -/
theorem toReg_toList_of_le {n k : Nat} {b : Bytes} (hb : b.length = k) (hk : k ≤ n) :
    (toReg n b).toList = b ++ zeros (n - k) := by
  subst hb
  simp [toReg_toList_eq, List.take_append, List.take_of_length_le hk, zeros]

/-! # NOP and ZEROIZE (40_control.md R130, R131) -/

/-- Settles O1: NOP completes on the state it found, ZEROIZE on the zeroized state. -/
theorem nopAndZeroizeRules : Obligations.NopAndZeroizeRules := by
  refine ⟨illegalOutside_table .nop, illegalOutside_table .zeroize, decodeOfEncode .nop rfl,
    decodeOfEncode .zeroize rfl, fun s => ⟨finish_eq 0 s, ?_⟩⟩
  exact ⟨_, _, _, Vector.toList_replicate, Vector.toList_replicate, Vector.toList_replicate, finish_eq 0 s.zeroized⟩

/-! # KEYLD (40_control.md R132) -/

/-- The word of KEYLD is its OP with KL in bits 13:12. -/
theorem decode_keyld {kl : Nat} (h : kl < 4) :
    decode ((0x00000002 : U32) ||| BitVec.ofNat 32 kl <<< 12) = .ok (.keyld kl) := by
  have hword := decodeOfEncode (.keyld kl) (decide_eq_true h)
  rwa [encode, fieldAt, Nat.mod_eq_of_lt (show kl < 2 ^ 2 from h)] at hword

theorem keyld_raises_arg {kl : Nat} (h : ¬ kl < 3) : Raises (.keyld kl) s .arg :=
  require_of_not h

/-- With an accepted KL, KEYLD checks the key's range, reads the key and loads it. -/
theorem exec_keyld {kl : Nat} (h : kl < 3) :
    exec (.keyld kl) s = require (s.inBounds s.args.src (keyLenOf kl).bytes) .bounds s
      (memRead s s.args.src (keyLenOf kl).bytes fun k => finish 0
        { s with key := toReg 32 k, klen := keyLenOf kl, ksv := false, mode := .none, phase := .aad }) :=
  require_of h

/-- Settles O2: KL = 3 fails the first check; for the other codes the key's range is checked, read and loaded. -/
theorem keyldRule : Obligations.KeyldRule := by
  refine ⟨illegalOutside_table (.keyld 0), fun kl h => decode_keyld h,
    fun s => ⟨keyld_raises_arg (by decide), fun kl n len h => ?_⟩⟩
  obtain ⟨hkl, rfl, rfl⟩ : kl < 3 ∧ len = keyLenOf kl ∧ n = (keyLenOf kl).bytes := by
    rcases h with ⟨rfl, rfl, rfl⟩ | ⟨rfl, rfl, rfl⟩ | ⟨rfl, rfl, rfl⟩ <;> decide
  have hexec := exec_keyld (s := s) hkl
  exact ⟨raises_of_not_check hexec, faultsUnwritten_of_check hexec, fun k hb hk =>
    ⟨toReg 32 k, toReg_toList_of_le (Memory.readBytes_length hk) (KeyLen.bytes_le _), exec_of_check hexec hb hk⟩⟩

/-! # NONCELD (40_control.md R133) -/

theorem nonceld_raises_arg (h : ¬ s.argLen ≤ 32) : Raises .nonceld s .arg :=
  require_of_not h

/-- With a length that NONCE holds, NONCELD checks the nonce's range, reads the nonce and loads it. -/
theorem exec_nonceld (h : s.argLen ≤ 32) :
    exec .nonceld s = require (s.inBounds s.args.src s.argLen) .bounds s
      (memRead s s.args.src s.argLen fun v =>
        finish 0 { s with nonce := toReg 32 v, nlen := Fin.ofNat 33 s.argLen }) :=
  require_of h

/-- Settles O3: A.LEN > 32 fails the first check; for any other length the nonce's range is checked, read and loaded. -/
theorem nonceldRule : Obligations.NonceldRule := by
  refine ⟨illegalOutside_table .nonceld, decodeOfEncode .nonceld rfl, fun s n hn => ?_⟩
  obtain rfl : n = s.argLen := hn
  refine ⟨fun h => nonceld_raises_arg (Nat.not_le.mpr h), fun h => raises_of_not_check (exec_nonceld h),
    fun h => faultsUnwritten_of_check (exec_nonceld h), fun v h hb hv => ?_⟩
  exact ⟨toReg 32 v, Fin.ofNat 33 s.argLen, toReg_toList_of_le (Memory.readBytes_length hv) h,
    Nat.mod_eq_of_lt (Nat.lt_succ_of_le h), exec_of_check (exec_nonceld h) hb hv⟩

end Sys2Proof.Machine

namespace Sys2Proof.Machine
open Sys2Proof

/-! Proofs of the family 41_aes.md: the S-box tables, the inverse functions of the cipher's transformations and rounds,
the recurrence of the key schedule, and the rules of AES_KEYEXP, AES_ENC and AES_DEC. -/

/-! # The S-box (41_aes.md R152, R153) -/

/-- The inverse of the affine map of R152: bit i is bits i + 2, i + 5 and i + 7 (mod 8) XOR bit i of 0x05. -/
def invAffine (y : Byte) : Byte := y.rotateRight 2 ^^^ y.rotateRight 5 ^^^ y.rotateRight 7 ^^^ 0x05

/-- The affine map of R152 takes the inverse affine image of a byte to that byte. -/
theorem affine_invAffine : ∀ y : Byte, ∀ i < 8, y.getLsbD i =
    ((invAffine y).getLsbD i ^^ (invAffine y).getLsbD ((i + 4) % 8) ^^ (invAffine y).getLsbD ((i + 5) % 8) ^^
      (invAffine y).getLsbD ((i + 6) % 8) ^^ (invAffine y).getLsbD ((i + 7) % 8) ^^ (0x63 : Byte).getLsbD i) := by
  decide +kernel

/-- The inverse table undoes the table, entry by entry (41_aes.md R153). -/
theorem invSbox_sbox : ∀ x : Byte, invSbox (sbox x) = x := by decide +kernel

theorem invAffine_sbox_zero : invAffine (sbox 0) = 0 := by decide

/-- The byte that the S-box maps to S(x) by R152's affine map is the inverse of x in GF(2^8). -/
theorem gfMul8_invAffine_sbox : ∀ x : Byte, x ≠ 0 → gfMul8 x (invAffine (sbox x)) = 1 := by decide +kernel

/-- Settles O7: the byte b is the inverse affine image of S(x). -/
theorem sboxTablesFollowFormula : Obligations.SboxTablesFollowFormula := by
  intro x
  refine ⟨invSbox_sbox x, invAffine (sbox x), ?_, affine_invAffine (sbox x)⟩
  by_cases hx : x = 0
  · exact .inl ⟨hx, hx ▸ invAffine_sbox_zero⟩
  · exact .inr ⟨hx, gfMul8_invAffine_sbox x hx⟩

/-! # The cells of a state (41_aes.md R150) -/

section
variable {s t rk : Bytes}

/-- A cell depends on its row and column modulo 4. -/
theorem cell_congr {r r' c c' : Nat} (hr : r % 4 = r' % 4) (hc : c % 4 = c' % 4) : cell s r c = cell s r' c' := by
  rw [cell, cell, hr, hc]

/-- Two states with the same cells are equal. -/
theorem eq_of_cell_eq (hs : s.length = 16) (ht : t.length = 16) (h : ∀ r c, cell s r c = cell t r c) : s = t := by
  refine List.ext_getElem (hs.trans ht.symm) fun k hks hkt => ?_
  have hk : k % 4 % 4 + 4 * (k / 4 % 4) = k := by omega
  have hcell := h (k % 4) (k / 4)
  simpa only [cell, byteAt, hk, List.getD_eq_getElem _ _ hks, List.getD_eq_getElem _ _ hkt] using hcell

theorem cell_aesState (f : Nat → Byte) (r c : Nat) : cell (aesState f) r c = f (r % 4 + 4 * (c % 4)) :=
  byteAt_aesState f (by omega)

/-! # The inverse of each transformation (41_aes.md R156 to R159) -/

theorem invSubBytes_subBytes (s : Bytes) : invSubBytes (subBytes s) = s := by
  simp [invSubBytes, subBytes, Function.comp_def, invSbox_sbox]

@[simp] theorem subBytes_length (s : Bytes) : (subBytes s).length = s.length := List.length_map ..

@[simp] theorem shiftRows_length (s : Bytes) : (shiftRows s).length = 16 := aesState_length _

theorem cell_shiftRows (s : Bytes) (r c : Nat) : cell (shiftRows s) r c = cell s r (c + r) :=
  (cell_aesState _ r c).trans (cell_congr (by omega) (by omega))

theorem cell_invShiftRows (s : Bytes) (r c : Nat) : cell (invShiftRows s) r c = cell s r (c + 4 - r % 4) :=
  (cell_aesState _ r c).trans (cell_congr (by omega) (by omega))

theorem invShiftRows_shiftRows (hs : s.length = 16) : invShiftRows (shiftRows s) = s := by
  refine eq_of_cell_eq (aesState_length _) hs fun r c => ?_
  rw [cell_invShiftRows, cell_shiftRows]
  exact cell_congr rfl (by omega)

theorem cell_addRoundKey (rk : Bytes) (j : Nat) (s : Bytes) (r c : Nat) :
    cell (addRoundKey rk j s) r c = cell s r c ^^^ byteAt rk (16 * j + (r % 4 + 4 * (c % 4))) :=
  cell_aesState _ r c

theorem addRoundKey_addRoundKey (j : Nat) (hs : s.length = 16) : addRoundKey rk j (addRoundKey rk j s) = s := by
  refine eq_of_cell_eq (addRoundKey_length ..) hs fun r c => ?_
  rw [cell_addRoundKey, cell_addRoundKey, BitVec.xor_assoc, BitVec.xor_self, BitVec.xor_zero]

/-! ## MixColumns (41_aes.md R151, R158) -/

/-- A product in GF(2^8) distributes over XOR: each bit of the second factor selects one term. -/
theorem gfMul8_xor (a b c : Byte) : gfMul8 a (b ^^^ c) = gfMul8 a b ^^^ gfMul8 a c := by
  have key (l : List Nat) (x y : Byte) :
      l.foldl (fun acc i => if (b ^^^ c).getLsbD i then acc ^^^ xtime^[i] a else acc) (x ^^^ y) =
        l.foldl (fun acc i => if b.getLsbD i then acc ^^^ xtime^[i] a else acc) x ^^^
          l.foldl (fun acc i => if c.getLsbD i then acc ^^^ xtime^[i] a else acc) y := by
    induction l generalizing x y with
    | nil => rfl
    | cons i l ih =>
      simp only [List.foldl_cons, ← ih, BitVec.getLsbD_xor]
      congr 1
      generalize xtime^[i] a = p
      cases b.getLsbD i <;> cases c.getLsbD i <;> simp [BitVec.xor_assoc, BitVec.xor_comm y p]
  exact key (List.range 8) 0 0

/-- The coefficients of InvMixColumns undo those of MixColumns: of the sixteen products that a column's cells contribute
to one cell, the four of that cell itself add up to it, and the four of each other cell cancel. -/
theorem mixCoefficients_spec : ∀ a : Byte,
    gfMul8 0x0E (gfMul8 0x02 a) ^^^ gfMul8 0x0B (gfMul8 0x01 a) ^^^ gfMul8 0x0D (gfMul8 0x01 a) ^^^
      gfMul8 0x09 (gfMul8 0x03 a) = a ∧
    gfMul8 0x0E (gfMul8 0x03 a) ^^^ gfMul8 0x0B (gfMul8 0x02 a) ^^^ gfMul8 0x0D (gfMul8 0x01 a) ^^^
      gfMul8 0x09 (gfMul8 0x01 a) = 0 ∧
    gfMul8 0x0E (gfMul8 0x01 a) ^^^ gfMul8 0x0B (gfMul8 0x03 a) ^^^ gfMul8 0x0D (gfMul8 0x02 a) ^^^
      gfMul8 0x09 (gfMul8 0x01 a) = 0 ∧
    gfMul8 0x0E (gfMul8 0x01 a) ^^^ gfMul8 0x0B (gfMul8 0x01 a) ^^^ gfMul8 0x0D (gfMul8 0x03 a) ^^^
      gfMul8 0x09 (gfMul8 0x02 a) = 0 := by
  decide +kernel

theorem cell_mixWith (c0 c1 c2 c3 : Byte) (s : Bytes) (r c : Nat) :
    cell (mixWith c0 c1 c2 c3 s) r c =
      gfMul8 c0 (cell s r c) ^^^ gfMul8 c1 (cell s (r + 1) c) ^^^
        gfMul8 c2 (cell s (r + 2) c) ^^^ gfMul8 c3 (cell s (r + 3) c) := by
  have hcell (i : Nat) : cell s (r % 4 + 4 * (c % 4) + i) ((r % 4 + 4 * (c % 4)) / 4) = cell s (r + i) c :=
    cell_congr (by omega) (by omega)
  rw [mixWith, cell_aesState, hcell 1, hcell 2, hcell 3, ← Nat.add_zero r, ← hcell 0]
  rfl

@[simp] theorem mixColumns_length (s : Bytes) : (mixColumns s).length = 16 := aesState_length _

theorem invMixColumns_mixColumns (hs : s.length = 16) : invMixColumns (mixColumns s) = s := by
  refine eq_of_cell_eq (aesState_length _) hs fun r c => ?_
  have hwrap (i : Nat) : cell s (r + (4 + i)) c = cell s (r + i) c := cell_congr (by omega) rfl
  obtain ⟨h0, -, -, -⟩ := mixCoefficients_spec (cell s r c)
  obtain ⟨-, h1, -, -⟩ := mixCoefficients_spec (cell s (r + 1) c)
  obtain ⟨-, -, h2, -⟩ := mixCoefficients_spec (cell s (r + 2) c)
  obtain ⟨-, -, -, h3⟩ := mixCoefficients_spec (cell s (r + 3) c)
  simp only [invMixColumns, mixColumns, cell_mixWith, gfMul8_xor, Nat.add_assoc, Nat.reduceAdd, hwrap 0, hwrap 1,
    hwrap 2, Nat.add_zero]
  -- The sixteen products, collected by the cell they come from.
  calc _ = _ := by ac_rfl
    _ = cell s r c ^^^ 0 ^^^ (0 ^^^ 0) :=
      congrArg₂ (· ^^^ ·) (congrArg₂ (· ^^^ ·) h0 h1) (congrArg₂ (· ^^^ ·) h2 h3)
    _ = cell s r c := by simp

/-! # The inverse cipher (41_aes.md R159) -/

/-- The first half of an inverse round undoes the first half of a round. -/
theorem invSubBytes_invShiftRows_shiftRows_subBytes (hs : s.length = 16) :
    invSubBytes (invShiftRows (shiftRows (subBytes s))) = s := by
  rw [invShiftRows_shiftRows ((subBytes_length s).trans hs), invSubBytes_subBytes]

@[simp] theorem encRound_length (rk s : Bytes) (j : Nat) : (encRound rk s j).length = 16 := addRoundKey_length ..

/-- The two ciphers' rounds are half a round apart: a round of the inverse cipher takes the first half of the round
after j back to the first half of round j. -/
theorem decRound_shiftRows_subBytes_encRound (rk s : Bytes) (j : Nat) :
    decRound rk (shiftRows (subBytes (encRound rk s j))) j = shiftRows (subBytes s) := by
  rw [decRound, invSubBytes_invShiftRows_shiftRows_subBytes (encRound_length ..), encRound,
    addRoundKey_addRoundKey j (mixColumns_length _), invMixColumns_mixColumns (shiftRows_length _)]

/-- The same for a sequence of rounds, which the inverse cipher runs in reverse. -/
theorem foldl_decRound_foldl_encRound (rk s : Bytes) (js : List Nat) :
    js.reverse.foldl (decRound rk) (shiftRows (subBytes (js.foldl (encRound rk) s))) = shiftRows (subBytes s) := by
  induction js generalizing s with
  | nil => rfl
  | cons j js ih =>
    rw [List.reverse_cons, List.foldl_concat, List.foldl_cons, ih]
    exact decRound_shiftRows_subBytes_encRound rk s j

/-- Settles O6: the last round key cancels, the middle rounds undo each other, then the last half round and the first
round key. -/
theorem aesDecryptInvertsEncrypt : Obligations.AesDecryptInvertsEncrypt := by
  intro rk nr b hb
  rw [aesDecrypt, aesEncrypt, addRoundKey_addRoundKey nr (shiftRows_length _), foldl_decRound_foldl_encRound,
    invSubBytes_invShiftRows_shiftRows_subBytes (addRoundKey_length ..), addRoundKey_addRoundKey 0 hb]

end

/-! # The key schedule (41_aes.md R155) -/

section
variable {nk steps : Nat} {w : List Bytes}

/-- The words that were there stay in front. -/
theorem exists_extendKeyWords_eq_append (nk steps : Nat) (w : List Bytes) :
    ∃ l, extendKeyWords nk steps w = w ++ l := by
  induction steps generalizing w with
  | zero => exact ⟨[], (List.append_nil w).symm⟩
  | succ steps ih =>
    obtain ⟨l, hl⟩ := ih (w ++ [nextKeyWord nk w])
    exact ⟨nextKeyWord nk w :: l, by rw [extendKeyWords, hl, List.append_assoc, List.singleton_append]⟩

theorem getD_extendKeyWords_of_lt {i : Nat} (hi : i < w.length) :
    (extendKeyWords nk steps w).getD i [] = w.getD i [] := by
  obtain ⟨l, hl⟩ := exists_extendKeyWords_eq_append nk steps w
  rw [hl, List.getD_append _ _ _ _ hi]

/-- Each added word of the schedule is the next key word of the words before it. -/
theorem getD_extendKeyWords {i : Nat} (hle : w.length ≤ i) (hlt : i < w.length + steps) :
    (extendKeyWords nk steps w).getD i [] = nextKeyWord nk ((extendKeyWords nk steps w).take i) := by
  induction steps generalizing w with
  | zero => omega
  | succ steps ih =>
    rw [extendKeyWords]
    have hlen : (w ++ [nextKeyWord nk w]).length = w.length + 1 := List.length_append
    rcases hle.eq_or_lt with rfl | hlt'
    · obtain ⟨l, hl⟩ := exists_extendKeyWords_eq_append nk steps (w ++ [nextKeyWord nk w])
      rw [hl, List.append_assoc, List.take_left, List.getD_append_right _ _ _ _ le_rfl, Nat.sub_self,
        List.singleton_append, List.getD_cons_zero]
    · exact ih (by omega) (by omega)

/-- The next key word of the first i words of a list, by the list's own words. -/
theorem nextKeyWord_take {i : Nat} (hnk : 0 < nk) (hpos : 0 < i) (hi : i ≤ w.length) :
    nextKeyWord nk (w.take i) = xorBytes (w.getD (i - nk) [])
      (if i % nk = 0 then xorBytes (subWord (rotWord (w.getD (i - 1) []))) (rcon (i / nk))
       else if nk = 8 ∧ i % 8 = 4 then subWord (w.getD (i - 1) [])
       else w.getD (i - 1) []) := by
  have hget {k : Nat} (hk : k < i) : (w.take i).getD k [] = w.getD k [] := by
    rw [List.getD_eq_getElem?_getD, List.getElem?_take_of_lt hk, List.getD_eq_getElem?_getD]
  rw [nextKeyWord, List.length_take_of_le hi, hget (show i - 1 < i by omega), hget (show i - nk < i by omega)]

/-! ## The schedule of a key -/

theorem keyWords_length (nk : Nat) (key : Bytes) : (keyWords nk key).length = nk := by simp [keyWords]

theorem getD_keyWords {key : Bytes} {i : Nat} (hi : i < nk) :
    (keyWords nk key).getD i [] = slice key (4 * i) (4 * i + 4) := by
  simp [keyWords, hi]

theorem keyExpansion_length {key : Bytes} (hpos : 0 < nk) (hle : nk ≤ 8) (hkey : key.length = 4 * nk) :
    (keyExpansion nk key).length = 4 * (nk + 6 + 1) := by
  obtain ⟨hlen, -⟩ := extendKeyWords_spec hpos (4 * (nk + 6 + 1) - nk) (keyWords_length nk key).ge
    (keyWords_length_eq_four hkey)
  rw [keyExpansion, hlen, keyWords_length]
  omega

/-- The first Nk words of the schedule are the key. -/
theorem getD_keyExpansion_of_lt {key : Bytes} {i : Nat} (hi : i < nk) :
    (keyExpansion nk key).getD i [] = slice key (4 * i) (4 * i + 4) := by
  rw [keyExpansion, getD_extendKeyWords_of_lt (by rwa [keyWords_length]), getD_keyWords hi]

/-- Every later word of the schedule is given by the recurrence. -/
theorem getD_keyExpansion {key : Bytes} {i : Nat} (hge : nk ≤ i) (hlt : i < 4 * (nk + 6 + 1)) :
    (keyExpansion nk key).getD i [] = nextKeyWord nk ((keyExpansion nk key).take i) := by
  have hlen := keyWords_length nk key
  exact getD_extendKeyWords (by omega) (by omega)

/-- The words of the first n bytes of a string are words of the string. -/
theorem slice_slice_zero {α : Type} {b : List α} {i j n : Nat} (hj : j ≤ n) :
    slice (slice b 0 n) i j = slice b i j := by
  simp only [slice, List.drop_zero, List.drop_take, List.take_take]
  congr 1
  omega

end

section
variable {s : State}

/-- Nk of a key length is 4, 6 or 8 (41_aes.md R162). -/
theorem KeyLen.nk_eq {k : KeyLen} {nk : Nat} (h : k = .k16 ∧ nk = 4 ∨ k = .k24 ∧ nk = 6 ∨ k = .k32 ∧ nk = 8) :
    k ≠ .none ∧ nk = k.nk := by
  rcases h with ⟨rfl, rfl⟩ | ⟨rfl, rfl⟩ | ⟨rfl, rfl⟩ <;> decide

/-- KEY[0..KLEN) is Nk words (41_aes.md R162). -/
theorem keyBytes_length (h : s.klen ≠ .none) : (slice s.key.toList 0 s.klen.bytes).length = 4 * s.klen.nk := by
  have hle := s.klen.bytes_le
  obtain ⟨-, -, hbytes⟩ := KeyLen.nk_spec h
  rw [slice_length, Vector.length_toList]
  omega

/-- Settles O4: the words are `keyExpansion` of KEY, which AES_KEYEXP loads into RK. -/
theorem aesKeyexpRule : Obligations.AesKeyexpRule := by
  refine ⟨illegalOutside_table .aesKeyexp, decodeOfEncode .aesKeyexp rfl, fun s => ⟨fun h => ?_, fun nk h => ?_⟩⟩
  · exact require_of_not (not_not.mpr h)
  obtain ⟨hk, rfl⟩ := KeyLen.nk_eq h
  obtain ⟨hpos, hle, hbytes⟩ := KeyLen.nk_spec hk
  have hlen := keyExpansion_length hpos hle (keyBytes_length hk)
  refine ⟨_, loadSchedule s.rk s.schedule, hlen, fun i hi => ?_, fun i hlt hge => ?_, ?_, require_of hk⟩
  · rw [getD_keyExpansion_of_lt hi, slice_slice_zero (by omega)]
  · rw [getD_keyExpansion hge hlt, nextKeyWord_take hpos (by omega) (by omega)]
  · have htake := loadSchedule_take (rk := s.rk) (schedule_length_le hk)
    rwa [schedule_length hk] at htake

/-! # AES_ENC and AES_DEC (41_aes.md R160, R161) -/

/-- With an expanded key, a one-block command checks its two ranges, reads the block and writes its image. -/
theorem aesBlockCommand_of_ksv {f : Bytes → Bytes} (h : s.ksv = true) :
    aesBlockCommand f s = require (s.inBounds s.args.src 16 ∧ s.inBounds s.args.dst 16) .bounds s
      (memRead s s.args.src 16 fun b => finishWrite 16 s.args.dst (f b) s) :=
  require_of h

/-- Settles O5: both commands are `aesBlockCommand` of their cipher under RK and Nr. -/
theorem aesBlockRules : Obligations.AesBlockRules := by
  refine ⟨illegalOutside_table .aesEnc, illegalOutside_table .aesDec, decodeOfEncode .aesEnc rfl,
    decodeOfEncode .aesDec rfl, fun i f hi s => ?_⟩
  have hexec : exec i s = aesBlockCommand (f s.rk.toList s.nr) s := by
    rcases hi with ⟨rfl, rfl⟩ | ⟨rfl, rfl⟩ <;> rfl
  have hchecked (h : s.ksv = true) := hexec.trans (aesBlockCommand_of_ksv h)
  exact ⟨fun h => hexec.trans (require_of_not (by simp [h])), fun h => raises_of_not_check (hchecked h),
    fun h hsrc hdst => faultsUnwritten_of_check (hchecked h) ⟨hsrc, hdst⟩,
    fun b h hsrc hdst => exec_of_check (hchecked h) ⟨hsrc, hdst⟩⟩

end

end Sys2Proof.Machine

namespace Sys2Proof.Machine
open Sys2Proof

/-! Proofs of the family 42_chacha.md: a range that is read and stored in two chunks, and the rules of CHACHA_BLK,
HCHACHA, CHACHA_INIT and CHACHA_XOR. -/

variable {s t : State}

/-! # A success passes its checks (00_scope.md R9) -/

/-- A command that ends with ERRC = NONE goes on after each check. -/
theorem require_next_of_errc {c : Prop} [Decidable c] {e : ErrCode} {k : Result} (h : require c e s k = .next t)
    (ht : t.errc = .none) (he : e ≠ .none := by decide) : c ∧ k = .next t := by
  rcases require_next h with hk | ⟨-, rfl⟩
  · exact hk
  · exact absurd ht he

/-! # A range in two chunks (20_memory.md R74, R77, R86) -/

section
variable {a b : U32} {n1 n2 : Nat}

/-- The second chunk of a range inside DMEM begins at an address that does not wrap. -/
theorem State.inBounds.toNat_add (h : s.inBounds a (n1 + n2)) : (a + BitVec.ofNat 32 n1).toNat = a.toNat + n1 := by
  have hsize := s.dmemSize_le
  have ha := a.isLt
  rw [BitVec.toNat_add, BitVec.toNat_ofNat]
  rcases h with h | h <;> omega

theorem State.inBounds.drop (h : s.inBounds a (n1 + n2)) : s.inBounds (a + BitVec.ofNat 32 n1) n2 := by
  have hadd := h.toNat_add
  rcases h with h | h
  · exact .inl (by omega)
  · exact .inr (by omega)

/-- The state with the operands A.SRC = a, A.DST = b and A.LEN = n. -/
def State.withRange (s : State) (a b : U32) (n : Nat) : State :=
  { s with args := { s.args with src := a, dst := b, len := BitVec.ofNat 32 n } }

theorem State.argLen_withRange {n : Nat} (h : n < 2 ^ 32) : (s.withRange a b n).argLen = n :=
  Nat.mod_eq_of_lt h

end

section
variable {m : Memory} {a b n1 n2 : Nat} {v w d : Bytes}

theorem xorBytes_append {v' w' : Bytes} (h : v.length = v'.length) :
    xorBytes (v ++ w) (v' ++ w') = xorBytes v v' ++ xorBytes w w' :=
  List.zipWith_append h

/-- A MemRead of a range reads its two chunks. -/
theorem Memory.readBytes_add (h : m.readBytes a (n1 + n2) = some d) :
    ∃ d1 d2, d = d1 ++ d2 ∧ m.readBytes a n1 = some d1 ∧ m.readBytes (a + n1) n2 = some d2 := by
  induction n1 generalizing a d with
  | zero => exact ⟨[], d, rfl, rfl, by simpa using h⟩
  | succ n1 ih =>
    rw [Nat.succ_add, Memory.readBytes] at h
    split at h
    case h_1 x xs hx hxs =>
      obtain ⟨d1, d2, rfl, h1, h2⟩ := ih hxs
      refine ⟨x :: d1, d2, (Option.some.inj h).symm, by simp [Memory.readBytes, hx, h1], ?_⟩
      rwa [Nat.add_assoc, Nat.add_comm 1] at h2
    case h_2 => exact absurd h (by simp)

/-- A MemWrite leaves what a MemRead answers of a range beside it. -/
theorem Memory.readBytes_write_of_disjoint {n : Nat} (h : a + v.length ≤ b ∨ b + n ≤ a) :
    (m.write a v).readBytes b n = m.readBytes b n := by
  refine Memory.readBytes_congr fun x hlo hhi => ?_
  rcases h with h | h
  · exact Memory.read_write_of_ge m v (by omega)
  · exact Memory.read_write_of_lt m v (by omega)

/-- Two MemWrites of consecutive chunks leave the bytes of one MemWrite. -/
theorem Memory.read_write_append (x : Nat) :
    ((m.write a v).write (a + v.length) w).read x = (m.write a (v ++ w)).read x := by
  simp only [Memory.read_write, List.length_append, Nat.sub_add_eq]
  by_cases hlo : x < a + v.length
  · rw [if_neg (by omega)]
    by_cases ha : a ≤ x
    · rw [if_pos ⟨ha, hlo⟩, if_pos (by omega), List.getElem?_append_left (by omega)]
    · rw [if_neg (by omega), if_neg (by omega)]
  · rw [if_neg (by omega : ¬ (a ≤ x ∧ x < a + v.length)), List.getElem?_append_right (by omega)]
    exact if_congr (by omega) rfl rfl

/-- XORing a keystream over a range in two chunks: the first store leaves the second chunk's source, and the two stores
leave the bytes of one. -/
theorem Memory.xorKeystream_chunks (ks : Nat → Byte) (k : Nat) (hd : m.readBytes a (n1 + n2) = some d)
    (hab : b ≤ a ∨ a + (n1 + n2) ≤ b) :
    ∃ d1 d2, m.readBytes a n1 = some d1 ∧
      (m.write b (xorBytes d1 (keystreamSlice ks k n1))).readBytes (a + n1) n2 = some d2 ∧
      ∀ x, ((m.write b (xorBytes d1 (keystreamSlice ks k n1))).write (b + n1)
          (xorBytes d2 (keystreamSlice ks (k + n1) n2))).read x =
        (m.write b (xorBytes d (keystreamSlice ks k (n1 + n2)))).read x := by
  obtain ⟨d1, d2, rfl, h1, h2⟩ := Memory.readBytes_add hd
  have hlen := Memory.readBytes_length h1
  have hxor := xorBytes_keystream_length ks k hlen
  refine ⟨d1, d2, h1, ?_, fun x => ?_⟩
  · rwa [Memory.readBytes_write_of_disjoint (by omega)]
  · rw [keystreamSlice_append, xorBytes_append (by simpa using hlen), ← Memory.read_write_append, hxor]

end

/-! # CHACHA_BLK (42_chacha.md R184) -/

/-- With a 32-byte key and a 12-byte nonce, CHACHA_BLK checks its destination and writes the block. -/
theorem exec_chachaBlk (hk : s.klen = .k32) (hn : s.nlen.val = 12) :
    exec .chachaBlk s = require (s.inBounds s.args.dst 64) .bounds s
      (finishWrite 64 s.args.dst (chachaBlock s.key.toList s.args.aux0 (slice s.nonce.toList 0 12)) s) :=
  (require_of hk).trans (require_of hn)

/-- Settles O8: the checks of the key, the nonce and the destination, in this order, then the block is written. -/
theorem chachaBlkRule : Obligations.ChachaBlkRule := by
  refine ⟨illegalOutside_table .chachaBlk, decodeOfEncode .chachaBlk rfl, fun s => ⟨fun hk => ?_, fun hk hn => ?_,
    fun hk hn hb => ?_, fun hk hn hb => ?_⟩⟩
  · exact require_of_not hk
  · exact (require_of hk).trans (require_of_not hn)
  · exact (exec_chachaBlk hk hn).trans (require_of_not hb)
  · exact (exec_chachaBlk hk hn).trans (require_of hb)

/-! # HCHACHA (42_chacha.md R185) -/

/-- With a 32-byte key, HCHACHA checks its two ranges, reads the input and writes the subkey. -/
theorem exec_hchacha (hk : s.klen = .k32) :
    exec .hchacha s = require (s.inBounds s.args.src 16 ∧ s.inBounds s.args.dst 32) .bounds s
      (memRead s s.args.src 16 fun u => finishWrite 32 s.args.dst (hChacha20 s.key.toList u) s) :=
  require_of hk

/-- Settles O9: the words written are those of `hChacha20`, which adds no initial state. -/
theorem hchachaRule : Obligations.HchachaRule := by
  refine ⟨illegalOutside_table .hchacha, decodeOfEncode .hchacha rfl, fun s => ⟨fun hk => require_of_not hk,
    fun hk => raises_of_not_check (exec_hchacha hk),
    fun hk hsrc hdst => faultsUnwritten_of_check (exec_hchacha hk) ⟨hsrc, hdst⟩, fun u x hk hsrc hdst hu hx => ?_⟩⟩
  have hsubkey : hChacha20 s.key.toList u = (slice x 0 4 ++ slice x 12 16).flatMap fun w => leBytes 4 w.toNat := by
    rw [hx]
    rfl
  rw [Succeeds, exec_of_check (exec_hchacha hk) ⟨hsrc, hdst⟩ hu, hsubkey, finishWrite_eq]

/-! # CHACHA_INIT (42_chacha.md R187) -/

/-- With a 32-byte key and a nonce of the stream's length, CHACHA_INIT checks the keystream index and starts the
stream. -/
theorem exec_chachaInit {x : Bool} (hk : s.klen = .k32) (hn : s.streamNonceOk x) :
    exec (.chachaInit x) s = require (s.chachaIndex ≤ chachaKsLen) .limit s (finish 0 { s with
      mode := .chacha, phase := .aad,
      ctx := { s.ctx with
        skey := toReg 32 (s.newStreamKey x), snonce := toReg 12 (s.newStreamNonce x), kidx := s.chachaIndex } }) :=
  (require_of hk).trans (require_of hn)

/-- Settles O10: the checks of the key, the nonce and the index, in this order; the derived key and nonce fill SKEY and
SNONCE exactly. -/
theorem chachaInitRule : Obligations.ChachaInitRule := by
  refine ⟨illegalOutside_table (.chachaInit false), decodeOfEncode (.chachaInit false) rfl,
    decodeOfEncode (.chachaInit true) rfl, fun s x k hidx => ?_⟩
  obtain rfl : k = s.chachaIndex := hidx
  refine ⟨fun hk => ?_, fun hk hn => ?_, fun hk hn hl => ?_, fun hk hn hl => ?_⟩
  · exact require_of_not hk
  · exact (require_of hk).trans (require_of_not hn)
  · exact (exec_chachaInit hk hn).trans (require_of_not (Nat.not_le.mpr hl))
  · exact ⟨toReg 32 (s.newStreamKey x), toReg 12 (s.newStreamNonce x),
      toReg_toList (streamKey_length x _ _ s.key.length_toList),
      toReg_toList (streamNonce_length x _ s.nonce.length_toList), (exec_chachaInit hk hn).trans (require_of hl)⟩

/-! # CHACHA_XOR (42_chacha.md R188) -/

/-- In a CHACHA stream and with both ranges inside DMEM, CHACHA_XOR checks that the keystream is long enough, reads the
source and writes its XOR. -/
theorem exec_chachaXor (hm : s.mode = .chacha) (hsrc : s.inBounds s.args.src s.argLen)
    (hdst : s.inBounds s.args.dst s.argLen) :
    exec .chachaXor s = require (s.ctx.kidx + s.argLen ≤ chachaKsLen) .limit s
      (memRead s s.args.src s.argLen fun d =>
        finishWrite s.argLen s.args.dst (xorBytes d (s.chachaStream s.argLen))
          { s with ctx := { s.ctx with kidx := s.ctx.kidx + s.argLen } }) :=
  (require_of hm).trans (require_of ⟨hsrc, hdst⟩)

/-- Settles O11: the checks of the mode, the ranges and the limit, in this order, then the source is read and its XOR
written. -/
theorem chachaXorRule : Obligations.ChachaXorRule := by
  refine ⟨illegalOutside_table .chachaXor, decodeOfEncode .chachaXor rfl, fun s n hn => ?_⟩
  obtain rfl : n = s.argLen := hn
  refine ⟨fun hm => ?_, fun hm hb => ?_, fun hm hsrc hdst hl => ?_, fun hm hsrc hdst hl hv => ?_,
    fun d hm hsrc hdst hl hd => ?_⟩
  · exact require_of_not hm
  · exact (require_of hm).trans (require_of_not hb)
  · exact raises_of_not_check (exec_chachaXor hm hsrc hdst) (Nat.not_le.mpr hl)
  · exact faultsUnwritten_of_check (exec_chachaXor hm hsrc hdst) hl hv
  · exact exec_of_check (exec_chachaXor hm hsrc hdst) hl hd

/-! ## CHACHA_XOR in two chunks (42_chacha.md R188, 20_memory.md R86) -/

/-- CHACHA_XOR of n bytes from a to b passes its checks in the state s and reads d. -/
structure State.ChachaXorReads (s : State) (a b : U32) (n : Nat) (d : Bytes) : Prop where
  mode : s.mode = .chacha
  src : s.inBounds a n
  dst : s.inBounds b n
  limit : s.ctx.kidx + n ≤ chachaKsLen
  holds : s.Holds a n d

/-- The next state of a CHACHA_XOR of n bytes from a to b that reads d. -/
def State.chachaXored (s : State) (a b : U32) (n : Nat) (d : Bytes) : State :=
  ({ s.withRange a b n with ctx := { s.ctx with kidx := s.ctx.kidx + n } }.memWrite b
    (xorBytes d (s.chachaStream n))).completed .none n

section
variable {a b : U32} {n n1 n2 : Nat} {d : Bytes}

theorem exec_chachaXor_withRange (hn : n < 2 ^ 32) :
    exec .chachaXor (s.withRange a b n) =
      require (s.mode = .chacha) .seq (s.withRange a b n) (
      require (s.inBounds a n ∧ s.inBounds b n) .bounds (s.withRange a b n) (
      require (s.ctx.kidx + n ≤ chachaKsLen) .limit (s.withRange a b n) (
      memRead s a n fun d => .next (s.chachaXored a b n d)))) := by
  have hlen : (s.withRange a b n).argLen = n := State.argLen_withRange hn
  rw [exec, execChachaXor, hlen]
  rfl

/-- The one way in which CHACHA_XOR succeeds. -/
theorem exec_chachaXor_withRange_next (hn : n < 2 ^ 32) (h : exec .chachaXor (s.withRange a b n) = .next t)
    (ht : t.errc = .none) : ∃ d, s.ChachaXorReads a b n d ∧ t = s.chachaXored a b n d := by
  rw [exec_chachaXor_withRange hn] at h
  obtain ⟨hm, h⟩ := require_next_of_errc h ht
  obtain ⟨⟨hsrc, hdst⟩, h⟩ := require_next_of_errc h ht
  obtain ⟨hl, h⟩ := require_next_of_errc h ht
  obtain ⟨d, hd, -, h⟩ := memRead_next h
  exact ⟨d, ⟨hm, hsrc, hdst, hl, hd⟩, (Host.Outcome.next.inj h).symm⟩

theorem State.ChachaXorReads.exec_eq (h : s.ChachaXorReads a b n d) :
    exec .chachaXor (s.withRange a b n) = .next (s.chachaXored a b n d) := by
  rw [exec_chachaXor_withRange h.src.length_lt, require_of h.mode, require_of ⟨h.src, h.dst⟩, require_of h.limit,
    memRead_of h.holds]

/-- The second chunk's operands continue the first's without a wrap, its source is still unchanged, and the two chunks
take the two parts of the keystream. -/
theorem State.ChachaXorReads.chunks (h : s.ChachaXorReads a b (n1 + n2) d)
    (hab : b.toNat ≤ a.toNat ∨ a.toNat + (n1 + n2) ≤ b.toNat) :
    ∃ d1 d2 u v, s.ChachaXorReads a b n1 d1 ∧ u = s.chachaXored a b n1 d1 ∧
      u.ChachaXorReads (a + BitVec.ofNat 32 n1) (b + BitVec.ofNat 32 n1) n2 d2 ∧
      v = u.chachaXored (a + BitVec.ofNat 32 n1) (b + BitVec.ofNat 32 n1) n2 d2 ∧
      v.ctx = (s.chachaXored a b (n1 + n2) d).ctx ∧
      ∀ x, v.dmem.read x = (s.chachaXored a b (n1 + n2) d).dmem.read x := by
  obtain ⟨hm, hsrc, hdst, hl, hd⟩ := h
  obtain ⟨d1, d2, hd1, hd2, hread⟩ :=
    Memory.xorKeystream_chunks (chachaKs s.ctx.skey.toList s.ctx.snonce.toList) s.ctx.kidx hd hab
  rw [← hsrc.toNat_add] at hd2
  rw [← hdst.toNat_add] at hread
  refine ⟨d1, d2, _, _, ⟨hm, hsrc.mono (by omega), hdst.mono (by omega), by omega, hd1⟩, rfl,
    ⟨hm, hsrc.drop, hdst.drop, ?_, hd2⟩, rfl, ?_, hread⟩
  · exact (Nat.add_assoc ..).trans_le hl
  · exact congrArg (fun k => { s.ctx with kidx := k }) (Nat.add_assoc ..)

end

/-- Settles O12: a successful CHACHA_XOR reads its range, and so do two over its chunks. -/
theorem chachaXorChunksAgree : Obligations.ChachaXorChunksAgree := by
  intro s t a b n1 n2 hn hab h ht
  obtain ⟨d, hreads, rfl⟩ := exec_chachaXor_withRange_next hn h ht
  obtain ⟨d1, d2, u, v, hu, rfl, hv, rfl, hctx, hread⟩ := hreads.chunks hab
  exact ⟨_, _, hu.exec_eq, hv.exec_eq, rfl, hctx, hread⟩

end Sys2Proof.Machine

namespace Sys2Proof.Machine
open Sys2Proof

/-! Proofs of the family 43_ctr.md: the counter field and the counter blocks, and the rules of CTR_INIT and CTR_XOR. -/

variable {s t : State}

/-! # Counter blocks (43_ctr.md R211) -/

/-- The counter field c0 is v modulo 2^CW. -/
theorem ctrField_eq_mod (ctr0 : Bytes) (cw : Nat) : ctrField ctr0 cw = be ctr0 % 2 ^ cw :=
  Nat.and_two_pow_sub_one_eq_mod ..

/-- Setting bits of m where they are clear is an addition. -/
theorem and_not_or_eq_add {n : Nat} {v m x : BitVec n} (hx : x &&& m = x) : v &&& ~~~m ||| x = (v &&& ~~~m) + x := by
  refine (BitVec.add_eq_or_of_and_eq_zero _ _ ?_).symm
  calc v &&& ~~~m &&& x = v &&& ~~~m &&& (x &&& m) := by rw [hx]
    _ = v &&& x &&& (m &&& ~~~m) := by ac_rfl
    _ = 0 := by simp

/-- The bits of v outside m and those inside it add up to v. -/
theorem and_not_add_and {n : Nat} (v m : BitVec n) : (v &&& ~~~m) + (v &&& m) = v := by
  rw [← and_not_or_eq_add (by rw [BitVec.and_assoc, BitVec.and_self]), ← BitVec.and_or_distrib_left, BitVec.or_comm,
    BitVec.or_not_self, BitVec.and_allOnes]

/-- A number of at most CW bits lies inside the counter field. -/
theorem ofNat_and_mask {n cw x : Nat} (hx : x < 2 ^ cw) :
    BitVec.ofNat n x &&& BitVec.ofNat n (2 ^ cw - 1) = BitVec.ofNat n x := by
  rw [← BitVec.ofNat_and, Nat.and_two_pow_sub_one_of_lt_two_pow hx]

section
variable {ctr0 : Bytes} {cw i : Nat}

/-- CB(i) is v + i modulo 2^128 while its counter field does not pass the maximum. -/
theorem ctrBlock_eq_add (hi : be ctr0 % 2 ^ cw + i < 2 ^ cw) :
    ctrBlock ctr0 cw i = beBytes 16 (BitVec.ofNat 128 (be ctr0 + i)).toNat := by
  rw [← ctrField_eq_mod] at hi
  rw [ctrBlock, and_not_or_eq_add (ofNat_and_mask hi), ctrField, BitVec.ofNat_add, BitVec.ofNat_and,
    ← BitVec.add_assoc, and_not_add_and, ← BitVec.ofNat_add]

/-- While the counter field does not overflow, v + i keeps the fixed part of v. -/
theorem add_div_two_pow_of_mod_add_lt {v : Nat} (hi : v % 2 ^ cw + i < 2 ^ cw) : (v + i) / 2 ^ cw = v / 2 ^ cw := by
  conv_lhs => rw [← Nat.div_add_mod v (2 ^ cw), Nat.add_assoc, Nat.mul_add_div (Nat.two_pow_pos cw),
    Nat.div_eq_of_lt hi, Nat.add_zero]

/-- Nor does v + i pass 2^n, since its fixed part is that of v. -/
theorem add_lt_two_pow_of_mod_add_lt {n v : Nat} (hn : cw ≤ n) (hv : v < 2 ^ n) (hi : v % 2 ^ cw + i < 2 ^ cw) :
    v + i < 2 ^ n := by
  rw [← Nat.sub_add_cancel hn, Nat.pow_add, ← Nat.div_lt_iff_lt_mul (Nat.two_pow_pos cw)] at hv ⊢
  rwa [add_div_two_pow_of_mod_add_lt hi]

theorem be_ctrBlock (hlen : ctr0.length = 16) (hcw : cw ≤ 128) (hi : be ctr0 % 2 ^ cw + i < 2 ^ cw) :
    be (ctrBlock ctr0 cw i) = be ctr0 + i := by
  have hv : be ctr0 < 2 ^ 128 := by simpa [hlen] using be_lt ctr0
  have hlt := add_lt_two_pow_of_mod_add_lt hcw hv hi
  rw [ctrBlock_eq_add hi, be_beBytes, BitVec.toNat_ofNat, Nat.mod_eq_of_lt hlt]
  exact Nat.mod_eq_of_lt hlt

end

/-- Settles O15: CB(i) is BE(CTR0) + i, which is injective in i. -/
theorem ctrBlocksNeverWrap : Obligations.CtrBlocksNeverWrap := by
  intro ctr0 cw i j hlen _ hcw hi hj
  have hbi := be_ctrBlock hlen hcw hi
  refine ⟨hbi, by rw [hbi, add_div_two_pow_of_mod_add_lt hi], fun h => ?_⟩
  rw [h, be_ctrBlock hlen hcw hj] at hbi
  exact (Nat.add_left_cancel hbi).symm

/-! # CTR_INIT (43_ctr.md R210) -/

/-- The word of CTR_INIT is its OP with CW in bits 31:24. -/
theorem decode_ctrInit {cw : Nat} (h : cw < 256) :
    decode ((0x00000030 : U32) ||| BitVec.ofNat 32 cw <<< 24) = .ok (.ctrInit cw) := by
  have hword := decodeOfEncode (.ctrInit cw) (decide_eq_true h)
  rwa [encode, fieldAt, Nat.mod_eq_of_lt (show cw < 2 ^ 8 from h)] at hword

/-- With an expanded key and a 16-byte nonce, CTR_INIT checks the width and the keystream index and starts the
stream. -/
theorem exec_ctrInit {cw : Nat} (hk : s.ksv = true) (hn : s.nlen.val = 16) :
    exec (.ctrInit cw) s = require (ctrWidthOk cw) .arg s (
      require (s.ctrIndex ≤ ctrLimit s.nonce16 cw) .limit s (finish 0 { s with
        mode := .ctr, phase := .aad,
        ctx := { s.ctx with ctr0 := toReg 16 s.nonce16, cw := BitVec.ofNat 8 cw, kidx := s.ctrIndex } })) :=
  (require_of hk).trans (require_of hn)

/-- Settles O13: the checks of the schedule, the nonce, the width and the index, in this order; the nonce and an
accepted width fill CTR0 and CW exactly. -/
theorem ctrInitRule : Obligations.CtrInitRule := by
  refine ⟨illegalOutside_table (.ctrInit 0), fun cw h => decode_ctrInit h, fun s cw k c0 hidx hc => ?_⟩
  obtain rfl : k = s.ctrIndex := hidx
  obtain rfl : c0 = ctrField s.nonce16 cw := hc.trans (ctrField_eq_mod ..).symm
  refine ⟨fun hk => ?_, fun hk hn => ?_, fun hk hn hw => ?_, fun hk hn hpos hle hl => ?_,
    fun hk hn hpos hle hl => ?_⟩
  · exact require_of_not (by simp [hk])
  · exact (require_of hk).trans (require_of_not hn)
  · exact (exec_ctrInit hk hn).trans (require_of_not hw)
  · exact (exec_ctrInit hk hn).trans ((require_of ⟨hpos, hle⟩).trans (require_of_not (Nat.not_le.mpr hl)))
  · exact ⟨toReg 16 s.nonce16, BitVec.ofNat 8 cw, toReg_toList (by simp [State.nonce16]),
      Nat.mod_eq_of_lt (by omega), (exec_ctrInit hk hn).trans ((require_of ⟨hpos, hle⟩).trans (require_of hl))⟩

/-! # CTR_XOR (43_ctr.md R212) -/

section
variable {n n1 n2 : Nat} {d : Bytes}

/-- In a CTR stream and with both ranges inside DMEM, CTR_XOR checks that the keystream is long enough, reads the source
and writes its XOR. -/
theorem exec_ctrXor (hn : s.argLen = n) (hm : s.mode = .ctr) (hsrc : s.inBounds s.args.src n)
    (hdst : s.inBounds s.args.dst n) :
    exec .ctrXor s = require (s.ctx.kidx + n ≤ s.ctrLim) .limit s (memRead s s.args.src n fun d =>
      finishWrite n s.args.dst (xorBytes d (s.ctrStream n))
        { s with ctx := { s.ctx with kidx := s.ctx.kidx + n } }) := by
  subst hn
  exact (require_of hm).trans (require_of ⟨hsrc, hdst⟩)

/-- CTR_XOR of n bytes passes its checks in the state s and reads d. -/
structure State.CtrXorReads (s : State) (n : Nat) (d : Bytes) : Prop where
  mode : s.mode = .ctr
  src : s.inBounds s.args.src n
  dst : s.inBounds s.args.dst n
  limit : s.ctx.kidx + n ≤ s.ctrLim
  holds : s.Holds s.args.src n d

/-- The next state of a CTR_XOR of n bytes that reads d. -/
def State.ctrXored (s : State) (n : Nat) (d : Bytes) : State :=
  ({ s with ctx := { s.ctx with kidx := s.ctx.kidx + n } }.memWrite s.args.dst (xorBytes d (s.ctrStream n))).completed
    .none n

theorem State.CtrXorReads.exec_eq (h : s.CtrXorReads n d) (hn : s.argLen = n) :
    exec .ctrXor s = .next (s.ctrXored n d) :=
  exec_of_check (exec_ctrXor hn h.mode h.src h.dst) h.limit h.holds

/-- The one way in which CTR_XOR succeeds. -/
theorem exec_ctrXor_next (hn : s.argLen = n) (h : exec .ctrXor s = .next t) (ht : t.errc = .none) :
    ∃ d, s.CtrXorReads n d ∧ t = s.ctrXored n d := by
  subst hn
  obtain ⟨hm, h⟩ := require_next_of_errc h ht
  obtain ⟨⟨hsrc, hdst⟩, h⟩ := require_next_of_errc h ht
  obtain ⟨hl, h⟩ := require_next_of_errc h ht
  obtain ⟨d, hd, -, h⟩ := memRead_next h
  exact ⟨d, ⟨hm, hsrc, hdst, hl, hd⟩, finishWrite_next h⟩

/-- The first chunk of a CTR_XOR of n1 + n2 bytes. -/
def State.ctrChunk1 (s : State) (n1 : Nat) : State := s.withRange s.args.src s.args.dst n1

/-- The second chunk, after a first that read d1. -/
def State.ctrChunk2 (s : State) (n1 n2 : Nat) (d1 : Bytes) : State :=
  ((s.ctrChunk1 n1).ctrXored n1 d1).withRange (s.args.src + BitVec.ofNat 32 n1) (s.args.dst + BitVec.ofNat 32 n1) n2

/-- The second chunk's operands continue the first's without a wrap, its source is still unchanged, and the two chunks
take the two parts of the keystream. -/
theorem State.CtrXorReads.chunks (h : s.CtrXorReads (n1 + n2) d)
    (hab : s.args.dst.toNat ≤ s.args.src.toNat ∨ s.args.src.toNat + (n1 + n2) ≤ s.args.dst.toNat) :
    ∃ d1 d2, (s.ctrChunk1 n1).CtrXorReads n1 d1 ∧ (s.ctrChunk2 n1 n2 d1).CtrXorReads n2 d2 ∧
      ((s.ctrChunk2 n1 n2 d1).ctrXored n2 d2).ctx = (s.ctrXored (n1 + n2) d).ctx ∧
      ∀ x, ((s.ctrChunk2 n1 n2 d1).ctrXored n2 d2).dmem.read x = (s.ctrXored (n1 + n2) d).dmem.read x := by
  obtain ⟨hm, hsrc, hdst, hl, hd⟩ := h
  obtain ⟨d1, d2, hd1, hd2, hread⟩ := Memory.xorKeystream_chunks
    (ctrKs s.rk.toList s.nr s.ctx.ctr0.toList s.ctx.cw.toNat) s.ctx.kidx hd hab
  rw [← hsrc.toNat_add] at hd2
  rw [← hdst.toNat_add] at hread
  exact ⟨d1, d2, ⟨hm, hsrc.mono (by omega), hdst.mono (by omega),
      le_trans (Nat.add_le_add_left (n1.le_add_right n2) _) hl, hd1⟩,
    ⟨hm, hsrc.drop, hdst.drop, (Nat.add_assoc ..).trans_le hl, hd2⟩,
    congrArg (fun k => { s.ctx with kidx := k }) (Nat.add_assoc ..), hread⟩

end

/-- Settles O14: the checks of the mode, the ranges and the limit, in this order, then the source is read and its XOR
written. -/
theorem ctrXorRule : Obligations.CtrXorRule := by
  refine ⟨illegalOutside_table .ctrXor, decodeOfEncode .ctrXor rfl, fun s n lim hn hlim => ?_⟩
  obtain rfl : n = s.argLen := hn
  obtain rfl : lim = s.ctrLim := by rw [hlim, State.ctrLim, ctrLimit, ctrField_eq_mod]
  refine ⟨fun hm => ?_, fun hm hb => ?_, fun hm hsrc hdst hl => ?_, fun hm hsrc hdst hl hv => ?_,
    fun d hm hsrc hdst hl hd => ?_⟩
  · exact require_of_not hm
  · exact (require_of hm).trans (require_of_not hb)
  · exact raises_of_not_check (exec_ctrXor rfl hm hsrc hdst) (Nat.not_le.mpr hl)
  · exact faultsUnwritten_of_check (exec_ctrXor rfl hm hsrc hdst) hl hv
  · exact State.CtrXorReads.exec_eq ⟨hm, hsrc, hdst, hl, hd⟩ rfl

/-- Settles O16: a successful CTR_XOR reads its range, and so do two over its chunks. -/
theorem ctrXorChunksAgree : Obligations.CtrXorChunksAgree := by
  intro s t a b n1 n2 hn hab h ht
  obtain ⟨d, hreads, rfl⟩ := exec_ctrXor_next (s := s.withRange a b (n1 + n2)) (State.argLen_withRange hn) h ht
  obtain ⟨d1, d2, hu, hv, hctx, hread⟩ := hreads.chunks hab
  exact ⟨_, _, hu.exec_eq (State.argLen_withRange (by omega)), hv.exec_eq (State.argLen_withRange (by omega)), rfl,
    hctx, hread⟩

end Sys2Proof.Machine

namespace Sys2Proof.Machine
open Sys2Proof

/-! Proofs of the family 44_cbc.md: PKCS7 padding, the blocks of a byte string, what `cbcEncrypt` and `cbcDecrypt`
answer block by block, and the rules of CBC_INIT, CBC_ENC and CBC_DEC. -/

/-! # PKCS7 padding (44_cbc.md R231) -/

section
variable {m q : Bytes}

theorem pkcs7Pad_length (m : Bytes) : (pkcs7Pad m).length = m.length + (16 - m.length % 16) := by
  simp [pkcs7Pad]

/-- The last byte of a padded message is the number of bytes added. -/
theorem padByte_pkcs7Pad (m : Bytes) : padByte (pkcs7Pad m) = 16 - m.length % 16 := by
  have hlast : (pkcs7Pad m)[(pkcs7Pad m).length - 1]? = some (BitVec.ofNat 8 (16 - m.length % 16)) := by
    rw [pkcs7Pad_length, pkcs7Pad, List.getElem?_append_right (by omega), List.getElem?_replicate_of_lt (by omega)]
  rw [padByte, byteAt, List.getD_eq_getElem?_getD, hlast, Option.getD_some, BitVec.toNat_ofNat]
  exact Nat.mod_eq_of_lt (by omega)

/-- The message ends where the padding of its padded form begins. -/
theorem pkcs7Pad_length_sub_padByte (m : Bytes) : (pkcs7Pad m).length - padByte (pkcs7Pad m) = m.length := by
  rw [pkcs7Pad_length, padByte_pkcs7Pad, Nat.add_sub_cancel]

theorem padValid_pkcs7Pad (m : Bytes) : padValid (pkcs7Pad m) := by
  rw [padValid, pkcs7Pad_length_sub_padByte, padByte_pkcs7Pad]
  refine ⟨by omega, by omega, fun b hb => ?_⟩
  rw [pkcs7Pad, List.drop_left] at hb
  rw [List.eq_of_mem_replicate hb, BitVec.toNat_ofNat]
  exact Nat.mod_eq_of_lt (by omega)

theorem pkcs7Unpad_pkcs7Pad (m : Bytes) : pkcs7Unpad (pkcs7Pad m) = m := by
  rw [pkcs7Unpad, pkcs7Pad_length_sub_padByte, pkcs7Pad, List.take_left]

/-- Settles O20: the padding of a padded message is the bytes that were added. -/
theorem pkcs7RoundTrip : Obligations.Pkcs7RoundTrip := by
  intro m
  have hlen := pkcs7Pad_length m
  exact ⟨by omega, by omega, by omega, padValid_pkcs7Pad m, pkcs7Unpad_pkcs7Pad m⟩

/-- The padding of a string of a block or more, read from its last byte back. -/
theorem padValid_iff (h : 16 ≤ q.length) : padValid q ↔
    1 ≤ padByte q ∧ padByte q ≤ 16 ∧ ∀ j < padByte q, (byteAt q (q.length - 1 - j)).toNat = padByte q := by
  refine and_congr_right fun hpos => and_congr_right fun hle => ?_
  have hbyte {k : Nat} (hk : k < q.length) : byteAt q k = q[k] := List.getD_eq_getElem _ _ hk
  constructor
  · intro hall j hj
    refine hall _ (List.mem_drop_iff_getElem.mpr ⟨padByte q - 1 - j, by omega, ?_⟩)
    rw [hbyte (by omega)]
    congr 1
    omega
  · intro hall b hb
    obtain ⟨k, hk, rfl⟩ := List.mem_drop_iff_getElem.mp hb
    have hj := hall (padByte q - 1 - k) (by omega)
    have hk' : q.length - 1 - (padByte q - 1 - k) = q.length - padByte q + k := by omega
    rwa [hk', hbyte (by omega)] at hj

end

/-! # The blocks of a byte string (00_scope.md R6) -/

/-- Block i of b, as `blocks16` cuts it. -/
def block16 (b : Bytes) (i : Nat) : Bytes := slice b (16 * i) (16 * i + 16)

section
variable {b c : Bytes} {k n : Nat}

theorem block16_length (h : 16 * k + 16 ≤ b.length) : (block16 b k).length = 16 := by
  rw [block16, slice_length]
  omega

theorem block16_append_zero (hc : c.length = 16) (b : Bytes) : block16 (c ++ b) 0 = c := by
  rw [block16, slice, Nat.mul_zero, List.drop_zero]
  exact List.take_left' hc

theorem block16_append_succ (hc : c.length = 16) (b : Bytes) (i : Nat) :
    block16 (c ++ b) (i + 1) = block16 b i := by
  have hdrop : (c ++ b).drop (16 * (i + 1)) = b.drop (16 * i) := by
    rw [Nat.mul_succ, Nat.add_comm, ← List.drop_drop, List.drop_left' hc]
  rw [block16, block16, slice, slice, hdrop, Nat.add_sub_cancel_left, Nat.add_sub_cancel_left]

/-- What stands before block i of b in a chain from c on. -/
theorem block16_append (hc : c.length = 16) (b : Bytes) (i : Nat) :
    block16 (c ++ b) i = if i = 0 then c else slice b (16 * (i - 1)) (16 * i) := by
  cases i with
  | zero => exact block16_append_zero hc b
  | succ i => exact block16_append_succ hc b i

/-- The last block of a chain from c on. -/
theorem block16_append_div (hc : c.length = 16) (b : Bytes) (hn : n % 16 = 0) :
    block16 (c ++ b) (n / 16) = if n = 0 then c else slice b (n - 16) n := by
  obtain ⟨k, rfl⟩ : ∃ k, n = 16 * k := ⟨n / 16, by omega⟩
  rw [block16_append hc]
  simp [Nat.mul_sub]

/-- The blocks of a string that begins with a block. -/
theorem blocks16_append (hc : c.length = 16) (k : Nat) (b : Bytes) :
    blocks16 (k + 1) (c ++ b) = c :: blocks16 k b := by
  have htail : (fun i => block16 (c ++ b) i) ∘ Nat.succ = block16 b := funext (block16_append_succ hc b)
  rw [blocks16, List.range_succ_eq_map, List.map_cons, List.map_map]
  exact congrArg₂ List.cons (block16_append_zero hc b) (congrArg (fun g => (List.range k).map g) htail)

/-- A string of k + 1 blocks is a block and a string of k blocks. -/
theorem exists_eq_block_append (hb : b.length = 16 * (k + 1)) :
    ∃ x y : Bytes, b = x ++ y ∧ x.length = 16 ∧ y.length = 16 * k :=
  ⟨b.take 16, b.drop 16, (List.take_append_drop 16 b).symm, by rw [List.length_take]; omega,
    by rw [List.length_drop]; omega⟩

end

/-! # Cipher block chaining (44_cbc.md R232, R233) -/

section
variable {f : Bytes → Bytes} {c c' m o q : Bytes} {k : Nat}

/-- CBC encryption of k blocks: block i of `c ++ o` is the chaining value before block i, and its block k the last
one. -/
theorem cbcEncrypt_spec (hf : ∀ b, (f b).length = 16) (hc : c.length = 16) (hm : m.length = 16 * k)
    (h : cbcEncrypt f c (blocks16 k m) = (o, c')) :
    (∀ i < k, block16 o i = f (xorBytes (block16 m i) (block16 (c ++ o) i))) ∧ c' = block16 (c ++ o) k := by
  induction k generalizing c m o with
  | zero =>
    obtain ⟨rfl, rfl⟩ := Prod.mk.inj h
    exact ⟨nofun, (block16_append_zero hc _).symm⟩
  | succ k ih =>
    obtain ⟨b, m, rfl, hb, hm⟩ := exists_eq_block_append hm
    rw [blocks16_append hb] at h
    obtain ⟨rfl, rfl⟩ := Prod.mk.inj h
    obtain ⟨hblock, hlast⟩ := ih (hf (xorBytes b c)) hm rfl
    refine ⟨fun i hi => ?_, hlast.trans (block16_append_succ hc _ k).symm⟩
    cases i with
    | zero => simp only [block16_append_zero, hf, hb, hc]
    | succ i =>
      rw [block16_append_succ (hf _), block16_append_succ hb, block16_append_succ hc]
      exact hblock i (by omega)

/-- CBC decryption of k blocks: block i of `c ++ q` is the chaining value before block i, and its block k the last
one. -/
theorem cbcDecrypt_spec (hf : ∀ b, (f b).length = 16) (hc : c.length = 16) (hq : q.length = 16 * k)
    (h : cbcDecrypt f c (blocks16 k q) = (o, c')) :
    o.length = 16 * k ∧ (∀ i < k, block16 o i = xorBytes (f (block16 q i)) (block16 (c ++ q) i)) ∧
      c' = block16 (c ++ q) k := by
  induction k generalizing c q o with
  | zero =>
    obtain ⟨rfl, rfl⟩ := Prod.mk.inj h
    exact ⟨rfl, nofun, (block16_append_zero hc _).symm⟩
  | succ k ih =>
    obtain ⟨b, q, rfl, hb, hq⟩ := exists_eq_block_append hq
    rw [blocks16_append hb] at h
    obtain ⟨rfl, rfl⟩ := Prod.mk.inj h
    obtain ⟨hlen, hblock, hlast⟩ := ih hb hq rfl
    have hx : (xorBytes (f b) c).length = 16 := by rw [xorBytes_length, hf, hc, Nat.min_self]
    refine ⟨by rw [List.length_append, hx, hlen]; omega, fun i hi => ?_, hlast.trans (block16_append_succ hc _ k).symm⟩
    cases i with
    | zero => simp only [block16_append_zero, hx, hb, hc]
    | succ i =>
      rw [block16_append_succ hx, block16_append_succ hb, block16_append_succ hc]
      exact hblock i (by omega)

end

variable {s : State}

/-! # CBC_INIT (44_cbc.md R230) -/

/-- Settles O17: the checks of the schedule and the nonce, in this order; the nonce fills CHAIN exactly. -/
theorem cbcInitRule : Obligations.CbcInitRule := by
  refine ⟨illegalOutside_table .cbcInit, decodeOfEncode .cbcInit rfl, fun s => ⟨fun hk => ?_, fun hk hn => ?_,
    fun hk hn => ?_⟩⟩
  · exact require_of_not (by simp [hk])
  · exact (require_of hk).trans (require_of_not hn)
  · exact ⟨toReg 16 s.nonce16, toReg_toList (by simp [State.nonce16]), (require_of hk).trans (require_of hn)⟩

/-! # CBC_ENC (44_cbc.md R232) -/

/-- The chunk that CBC_ENC encrypts. -/
def cbcText (padded : Bool) (d : Bytes) : Bytes := if padded then pkcs7Pad d else d

theorem cbcText_length (padded : Bool) (d : Bytes) : (cbcText padded d).length = cbcOutLen padded d.length := by
  cases padded with
  | false => rfl
  | true =>
    simp only [cbcText, cbcOutLen, if_true, pkcs7Pad_length]
    omega

/-- The output and the last chaining value of CBC_ENC for the text m of n bytes. -/
def State.cbcEncrypted (s : State) (n : Nat) (m : Bytes) : Bytes × Bytes :=
  cbcEncrypt s.aesEnc s.ctx.chain.toList (blocks16 (n / 16) m)

/-- In an open CBC stream and with an accepted length, CBC_ENC checks its two ranges, reads the chunk and writes its
encryption. -/
theorem exec_cbcEnc {l p : Bool} (ho : s.isOpen .cbc) (hn : (l && p) = false → s.argLen % 16 = 0) :
    exec (.cbcEnc l p) s =
      require (s.inBounds s.args.src s.argLen ∧ s.inBounds s.args.dst (cbcOutLen (l && p) s.argLen)) .bounds s
        (memRead s s.args.src s.argLen fun d =>
          let r := s.cbcEncrypted (cbcOutLen (l && p) s.argLen) (cbcText (l && p) d)
          finishWrite (cbcOutLen (l && p) s.argLen) s.args.dst r.1
            { s with phase := phaseAfterCbc l s.phase, ctx := { s.ctx with chain := toReg 16 r.2 } }) :=
  (require_of ho).trans (require_of hn)

/-- `cbcEncrypt_spec` in the words of the rule: the chaining value is CHAIN, then the output block before. -/
theorem State.cbcEncrypted_spec {n : Nat} {m o c : Bytes} (hn : n % 16 = 0) (hm : m.length = n)
    (h : s.cbcEncrypted n m = (o, c)) :
    o.length = n ∧
    (∀ i < n / 16, slice o (16 * i) (16 * i + 16) =
      s.aesEnc (xorBytes (slice m (16 * i) (16 * i + 16))
        (if i = 0 then s.ctx.chain.toList else slice o (16 * (i - 1)) (16 * i)))) ∧
    c = (if n = 0 then s.ctx.chain.toList else slice o (n - 16) n) ∧ c.length = 16 := by
  have hc : s.ctx.chain.toList.length = 16 := Vector.length_toList
  have henc (b : Bytes) : (s.aesEnc b).length = 16 := aesEncrypt_length ..
  obtain ⟨hblock, rfl⟩ := cbcEncrypt_spec henc hc (by omega) h
  have hlen : o.length = n := by
    have hsum : (s.cbcEncrypted n m).1.length = _ := cbcEncrypt_length henc _ _
    simp only [h, blocks16_length] at hsum
    omega
  refine ⟨hlen, fun i hi => ?_, block16_append_div hc o hn, block16_length (by rw [List.length_append]; omega)⟩
  rw [← block16_append hc]
  exact hblock i hi

/-- Settles O18: the checks of the stream, the length and the ranges, in this order, then the chunk is read and its
encryption written. -/
theorem cbcEncRule : Obligations.CbcEncRule := by
  refine ⟨illegalOutside_table (.cbcEnc false false), decodeOfEncode (.cbcEnc false false) rfl,
    decodeOfEncode (.cbcEnc true false) rfl, decodeOfEncode (.cbcEnc false true) rfl,
    decodeOfEncode (.cbcEnc true true) rfl, fun s l p n outn hn houtn => ?_⟩
  obtain rfl : n = s.argLen := hn
  obtain rfl : outn = cbcOutLen (l && p) s.argLen := houtn
  refine ⟨fun ho => ?_, fun hm ho hp hn => ?_, fun hm ho hn => ?_, fun hm ho hn hsrc hdst hv => ?_,
    fun d m hm ho hn hsrc hdst hd htext => ?_⟩
  · exact require_of_not ho
  · exact (require_of ⟨hm, ho⟩).trans (require_of_not fun h => hn (h hp))
  · exact raises_of_not_check (exec_cbcEnc ⟨hm, ho⟩ hn)
  · exact faultsUnwritten_of_check (exec_cbcEnc ⟨hm, ho⟩ hn) ⟨hsrc, hdst⟩ hv
  · have hdlen : d.length = s.argLen := Memory.readBytes_length hd
    obtain rfl : m = cbcText (l && p) d := by rw [htext, cbcText, pkcs7Pad, hdlen]
    obtain ⟨hlen, hblock, hlast, hreg⟩ :=
      State.cbcEncrypted_spec (s := s) (cbcOutLen_mod hn) (hdlen ▸ cbcText_length (l && p) d) rfl
    exact ⟨_, toReg 16 _, hlen, hblock, (toReg_toList hreg).trans hlast,
      exec_of_check (exec_cbcEnc ⟨hm, ho⟩ hn) ⟨hsrc, hdst⟩ hd⟩

/-! # CBC_DEC (44_cbc.md R233) -/

/-- The output before unpadding and the last chaining value of CBC_DEC for the ciphertext q. -/
def State.cbcDecrypted (s : State) (q : Bytes) : Bytes × Bytes :=
  cbcDecrypt s.aesDec s.ctx.chain.toList (blocks16 (s.argLen / 16) q)

/-- The end of CBC_DEC after its decryption r: the padding check, then the output is written. -/
def State.cbcDecEnd (s : State) (last padded : Bool) (r : Bytes × Bytes) : Result :=
  let out := if padded then pkcs7Unpad r.1 else r.1
  require (padded = true → padValid r.1) .pad { s with phase := .done } <|
  finishWrite out.length s.args.dst out
    { s with phase := phaseAfterCbc last s.phase, ctx := { s.ctx with chain := toReg 16 r.2 } }

/-- In an open CBC stream and with an accepted length, CBC_DEC checks its two ranges, reads the chunk and decrypts
it. -/
theorem exec_cbcDec {l p : Bool} (ho : s.isOpen .cbc) (hn : s.argLen % 16 = 0)
    (hp : (l && p) = true → 16 ≤ s.argLen) :
    exec (.cbcDec l p) s =
      require (s.inBounds s.args.src s.argLen ∧ s.inBounds s.args.dst s.argLen) .bounds s
        (memRead s s.args.src s.argLen fun q => s.cbcDecEnd l (l && p) (s.cbcDecrypted q)) :=
  (require_of ho).trans ((require_of hn).trans (require_of hp))

/-- `cbcDecrypt_spec` in the words of the rule: the chaining value is CHAIN, then the ciphertext block before. -/
theorem State.cbcDecrypted_spec {q o c : Bytes} (hn : s.argLen % 16 = 0) (hq : q.length = s.argLen)
    (h : s.cbcDecrypted q = (o, c)) :
    o.length = s.argLen ∧
    (∀ i < s.argLen / 16, slice o (16 * i) (16 * i + 16) =
      xorBytes (s.aesDec (slice q (16 * i) (16 * i + 16)))
        (if i = 0 then s.ctx.chain.toList else slice q (16 * (i - 1)) (16 * i))) ∧
    c = (if s.argLen = 0 then s.ctx.chain.toList else slice q (s.argLen - 16) s.argLen) ∧ c.length = 16 := by
  have hc : s.ctx.chain.toList.length = 16 := Vector.length_toList
  obtain ⟨hlen, hblock, rfl⟩ := cbcDecrypt_spec (fun b => aesDecrypt_length ..) hc (by omega) h
  refine ⟨by omega, fun i hi => ?_, block16_append_div hc q hn, block16_length (by rw [List.length_append]; omega)⟩
  rw [← block16_append hc]
  exact hblock i hi

section
variable {last : Bool} {r : Bytes × Bytes}

theorem cbcDecEnd_unpadded : s.cbcDecEnd last false r = finishWrite r.1.length s.args.dst r.1
    { s with phase := phaseAfterCbc last s.phase, ctx := { s.ctx with chain := toReg 16 r.2 } } :=
  require_of (c := false = true → padValid r.1) nofun

theorem cbcDecEnd_of_padValid (h : padValid r.1) : s.cbcDecEnd last true r =
    finishWrite (r.1.length - padByte r.1) s.args.dst (slice r.1 0 (r.1.length - padByte r.1))
      { s with phase := phaseAfterCbc last s.phase, ctx := { s.ctx with chain := toReg 16 r.2 } } := by
  have hlen : (pkcs7Unpad r.1).length = r.1.length - padByte r.1 := List.length_take_of_le (Nat.sub_le ..)
  exact (require_of (c := true = true → padValid r.1) fun _ => h).trans
    (congrArg (fun n => finishWrite n s.args.dst (pkcs7Unpad r.1) _) hlen)

theorem cbcDecEnd_of_not_padValid (h : ¬ padValid r.1) :
    s.cbcDecEnd last true r = raiseErr .pad { s with phase := .done } :=
  require_of_not (c := true = true → padValid r.1) fun hpad => h (hpad rfl)

end

/-- Settles O19: the checks of the stream, the length and the ranges, in this order; then the chunk is read and
decrypted, and with L = P = 1 its padding is checked and removed. -/
theorem cbcDecRule : Obligations.CbcDecRule := by
  refine ⟨illegalOutside_table (.cbcDec false false), decodeOfEncode (.cbcDec false false) rfl,
    decodeOfEncode (.cbcDec true false) rfl, decodeOfEncode (.cbcDec false true) rfl,
    decodeOfEncode (.cbcDec true true) rfl, fun s l p n hn => ?_⟩
  obtain rfl : n = s.argLen := hn
  refine ⟨fun ho => ?_, fun hm ho hlen => ?_, fun hm ho hn hp => ?_, fun hm ho hn hp hsrc hdst hv => ?_,
    fun q hm ho hn hp hsrc hdst hq => ?_⟩
  · exact require_of_not ho
  · refine (require_of ⟨hm, ho⟩).trans ?_
    by_cases hn : s.argLen % 16 = 0
    · obtain ⟨hp, hlt⟩ := hlen.resolve_left (not_not.mpr hn)
      exact (require_of hn).trans (require_of_not fun h => Nat.not_le.mpr hlt (h hp))
    · exact require_of_not hn
  · exact raises_of_not_check (exec_cbcDec ⟨hm, ho⟩ hn hp)
  · exact faultsUnwritten_of_check (exec_cbcDec ⟨hm, ho⟩ hn hp) ⟨hsrc, hdst⟩ hv
  · have hexec := exec_of_check (exec_cbcDec ⟨hm, ho⟩ hn hp) ⟨hsrc, hdst⟩ hq
    generalize hr : s.cbcDecrypted q = r at hexec
    obtain ⟨o, c⟩ := r
    obtain ⟨hlen, hblock, hlast, hreg⟩ := State.cbcDecrypted_spec hn (Memory.readBytes_length hq) hr
    refine ⟨o, toReg 16 c, padByte o, hlen, hblock, (toReg_toList hreg).trans hlast, by rw [padByte, hlen],
      fun hlp => ?_, ?_⟩
    · rw [Succeeds, hexec, hlp, cbcDecEnd_unpadded, hlen]
      rfl
    refine forall_and.mp fun hlp => ?_
    obtain ⟨rfl, rfl⟩ : l = true ∧ p = true := Bool.and_eq_true_iff.mp hlp
    have hvalid := padValid_iff (q := o) (hlen.symm ▸ hp rfl)
    rw [hlen] at hvalid
    refine ⟨fun hpad => ?_, fun hpad => ?_⟩
    · rw [Succeeds, hexec, hlp, cbcDecEnd_of_padValid (hvalid.mpr hpad), hlen]
      rfl
    · rw [hexec, hlp, cbcDecEnd_of_not_padValid (hvalid.not.mpr hpad)]
      rfl

end Sys2Proof.Machine

namespace Sys2Proof.Machine
open Sys2Proof

/-! Proofs of the family 45_gcm.md: the tag comparison, the rules of GF128_MUL and of the GCM commands, and what a GCM
stream has absorbed. -/

variable {s t : State}

/-! # The field TL (30_encoding.md R101, 45_gcm.md R257) -/

/-- The word of a command whose one field is TL: its OP with TL in bits 19:16. -/
theorem decode_tagWord {op : U32} {i : Nat → Instr} {tl : Nat} (h : tl < 16)
    (hword : encode (i tl) = op ||| fieldAt tl 4 16) (hwf : (i tl).wellFormed = tlFits tl) :
    decode (op ||| BitVec.ofNat 32 tl <<< 16) = .ok (i tl) := by
  have hdecode := decodeOfEncode (i tl) (hwf.trans (decide_eq_true h))
  rwa [hword, fieldAt, Nat.mod_eq_of_lt (show tl < 2 ^ 4 from h)] at hdecode

theorem tagLen_le {tl : Nat} (h : tagLenOk tl) : tagLen tl ≤ 16 := by
  have hle : ∀ n ∈ Config.gcmTagLengths, n ≤ 16 := by decide
  exact hle _ h

/-! # The tag comparison (60_exceptions.md R335) -/

/-- The OR of the bytewise XORs is zero exactly where the strings agree. -/
theorem foldl_or_xorBytes_eq_zero {a b : Bytes} (h : a.length = b.length) (acc : Byte) :
    (xorBytes a b).foldl (· ||| ·) acc = 0 ↔ acc = 0 ∧ a = b := by
  induction a generalizing b acc with
  | nil =>
    obtain rfl := List.length_eq_zero_iff.mp h.symm
    exact (and_iff_left rfl).symm
  | cons x a ih =>
    obtain ⟨y, b, rfl⟩ := List.exists_cons_of_length_eq_add_one h.symm
    have hor : acc ||| (x ^^^ y) = 0 ↔ acc = 0 ∧ x = y :=
      BitVec.or_eq_zero_iff.trans (and_congr_right' BitVec.xor_eq_zero_iff)
    calc (xorBytes a b).foldl (· ||| ·) (acc ||| (x ^^^ y)) = 0
        ↔ (acc = 0 ∧ x = y) ∧ a = b := by rw [ih (Nat.succ.inj h), hor]
      _ ↔ acc = 0 ∧ x :: a = y :: b := by rw [and_assoc, List.cons.injEq]

theorem constEq_iff_eq {a b : Bytes} (h : a.length = b.length) : constEq a b = true ↔ a = b := by
  rw [constEq, beq_iff_eq, foldl_or_xorBytes_eq_zero h, and_iff_right rfl]

/-! # A MemRead among several (20_memory.md R76) -/

/-- A MemRead faults where its range is unwritten, and also where what follows faults whatever it reads. -/
theorem memRead_eq_fault {a : U32} {n : Nat} {k : Bytes → Result}
    (h : s.Unwritten a n ∨ ∀ v, k v = .fault .unwrittenDmem) : memRead s a n k = .fault .unwrittenDmem := by
  rw [memRead]
  split
  case h_1 v hv => exact h.resolve_left (by simp [State.Unwritten, hv]) v
  case h_2 => rfl

/-! # GF128_MUL (45_gcm.md R252) -/

/-- Settles O21: the check of the three ranges, then both blocks are read and their product written. -/
theorem gf128MulRule : Obligations.Gf128MulRule := by
  refine ⟨illegalOutside_table .gf128Mul, decodeOfEncode .gf128Mul rfl, fun s => ⟨fun hb => ?_,
    fun hx hy hdst hv => ?_, fun x y hx hy hdst hxv hyv => ?_⟩⟩
  · exact require_of_not hb
  · exact (require_of ⟨hx, hy, hdst⟩).trans (memRead_eq_fault (hv.imp_right fun h _ => memRead_of_none h))
  · exact (require_of ⟨hx, hy, hdst⟩).trans ((memRead_of hxv).trans (memRead_of hyv))

/-! # GCM_INIT (45_gcm.md R253, R254) -/

theorem nonceBytes_length (s : State) : s.nonceBytes.length = s.nlen.val := by
  have hlt := s.nlen.isLt
  rw [State.nonceBytes, slice_length, Vector.length_toList]
  omega

theorem toReg_newH (s : State) : (toReg 16 s.newH).toList = s.newH := toReg_toList (aesEncrypt_length ..)

theorem toReg_newJ0 (s : State) : (toReg 16 s.newJ0).toList = s.newJ0 := toReg_toList (gcmJ0_length ..)

theorem toReg_zeros (n : Nat) : (toReg n (zeros n)).toList = zeros n := toReg_toList (zeros_length n)

/-- Settles O22: the checks of the schedule and the nonce, in this order; H, J0 and the zero block fill their registers
exactly. -/
theorem gcmInitRule : Obligations.GcmInitRule := by
  refine ⟨illegalOutside_table .gcmInit, decodeOfEncode .gcmInit rfl, fun s iv hiv => ?_⟩
  obtain rfl : iv = s.nonceBytes := hiv
  refine ⟨fun hk => ?_, fun hk hn => ?_, fun hk hlo hhi => ?_⟩
  · exact require_of_not (by simp [hk])
  · exact (require_of hk).trans (require_of_not hn)
  · have hj0 : (toReg 16 s.newJ0).toList = gcmJ0 (toReg 16 s.newH).toList s.nonceBytes := by
      rw [toReg_newH, toReg_newJ0, State.newJ0]
    rw [gcmJ0, nonceBytes_length] at hj0
    exact ⟨toReg 16 s.newH, toReg 16 s.newJ0, toReg 16 (zeros 16), toReg_newH s, hj0, toReg_zeros 16,
      (require_of hk).trans (require_of ⟨hlo, hhi⟩)⟩

/-! # GCM_AAD (45_gcm.md R251, R255) -/

theorem toReg_ghashAbsorb (s : State) (d : Bytes) :
    (toReg 16 (s.ghashAbsorb d)).toList = ghash s.ctx.h.toList s.ctx.y.toList (pad16 d) :=
  toReg_toList (ghash_length _ _ _ Vector.length_toList)

/-- The state in which a GCM_AAD of n bytes that reads a leaves s, before its completion. -/
def State.gcmAadAbsorbed (s : State) (l : Bool) (n : Nat) (a : Bytes) : State :=
  { s with
    phase := phaseAfterAad l .aad, ctx := { s.ctx with y := toReg 16 (s.ghashAbsorb a), lena := s.ctx.lena + n } }

/-- In a GCM stream that takes AAD, and with an accepted length and a range inside DMEM, GCM_AAD checks LENA, reads the
chunk and absorbs it. -/
theorem exec_gcmAad {l : Bool} (ho : s.takesAad .gcm) (hn : chunkOk l s.argLen)
    (hsrc : s.inBounds s.args.src s.argLen) :
    exec (.gcmAad l) s = require (s.ctx.lena + s.argLen ≤ gcmAadMax) .limit s
      (memRead s s.args.src s.argLen fun a => finish 0 (s.gcmAadAbsorbed l s.argLen a)) := by
  rw [exec, execGcmAad, require_of ho, require_of hn, require_of hsrc, ho.2]
  rfl

/-- Settles O23: the checks of the stream, the length, the range and the limit, in this order, then the chunk is read
and absorbed. -/
theorem gcmAadRule : Obligations.GcmAadRule := by
  refine ⟨illegalOutside_table (.gcmAad false), decodeOfEncode (.gcmAad false) rfl, decodeOfEncode (.gcmAad true) rfl,
    fun s l n hn => ?_⟩
  obtain rfl : n = s.argLen := hn
  refine ⟨fun ho => ?_, fun hm hp hl hn => ?_, fun hm hp hn hb => ?_, fun hm hp hn hsrc hlim => ?_,
    fun hm hp hn hsrc hlim hv => ?_, fun a hm hp hn hsrc hlim ha => ?_⟩
  · exact require_of_not ho
  · exact (require_of ⟨hm, hp⟩).trans (require_of_not fun h => hn (h hl))
  · exact (require_of ⟨hm, hp⟩).trans ((require_of hn).trans (require_of_not hb))
  · exact raises_of_not_check (exec_gcmAad ⟨hm, hp⟩ hn hsrc) (Nat.not_le.mpr hlim)
  · exact faultsUnwritten_of_check (exec_gcmAad ⟨hm, hp⟩ hn hsrc) hlim hv
  · exact ⟨toReg 16 (s.ghashAbsorb a), toReg_ghashAbsorb s a,
      exec_of_check (exec_gcmAad ⟨hm, hp⟩ hn hsrc) hlim ha⟩

/-! # GCM_ENC and GCM_DEC (45_gcm.md R256, R258) -/

/-- The ciphertext of a text command: the output o of GCM_ENC, the input d of GCM_DEC. -/
def gcmCiphertext (enc : Bool) (d o : Bytes) : Bytes := if enc then o else d

theorem gcmCiphertext_length {enc : Bool} {d o : Bytes} {n : Nat} (hd : d.length = n) (ho : o.length = n) :
    (gcmCiphertext enc d o).length = n := by
  cases enc with
  | false => exact hd
  | true => exact ho

theorem exec_gcmText (enc l : Bool) (s : State) :
    exec (if enc then .gcmEnc l else .gcmDec l) s = gcmTextCommand (gcmCiphertext enc) l s := by
  cases enc <;> rfl

/-- The state in which a text command of n bytes leaves s, before its MemWrite and its completion, when it absorbs c. -/
def State.gcmTextAbsorbed (s : State) (l : Bool) (n : Nat) (c : Bytes) : State :=
  { s with
    phase := phaseAfterText l, ctx := { s.ctx with y := toReg 16 (s.ghashAbsorb c), lenc := s.ctx.lenc + n } }

/-- In a GCM stream that takes text, and with an accepted length and both ranges inside DMEM, a text command checks
LENC, reads the chunk, absorbs its ciphertext and writes its XOR. -/
theorem gcmTextCommand_of_inBounds {f : Bytes → Bytes → Bytes} {l : Bool} (ho : s.takesText .gcm)
    (hn : chunkOk l s.argLen) (hsrc : s.inBounds s.args.src s.argLen) (hdst : s.inBounds s.args.dst s.argLen) :
    gcmTextCommand f l s = require (s.ctx.lenc + s.argLen ≤ gcmTextMax) .limit s
      (memRead s s.args.src s.argLen fun d =>
        let o := xorBytes d (s.gcmStream s.argLen)
        finishWrite s.argLen s.args.dst o (s.gcmTextAbsorbed l s.argLen (f d o))) :=
  (require_of ho).trans ((require_of hn).trans (require_of ⟨hsrc, hdst⟩))

/-- Settles O24: the checks of the stream, the length, the ranges and the limit, in this order, then the chunk is read,
its ciphertext absorbed and its XOR written. -/
theorem gcmTextRules : Obligations.GcmTextRules := by
  refine ⟨illegalOutside_table (.gcmEnc false), illegalOutside_table (.gcmDec false),
    decodeOfEncode (.gcmEnc false) rfl, decodeOfEncode (.gcmEnc true) rfl, decodeOfEncode (.gcmDec false) rfl,
    decodeOfEncode (.gcmDec true) rfl, fun s l enc i n hn hi => ?_⟩
  obtain rfl : n = s.argLen := hn
  have hexec : exec i s = gcmTextCommand (gcmCiphertext enc) l s := hi ▸ exec_gcmText enc l s
  have hchecked (hm : s.mode = .gcm) (hp : s.phase = .aad ∨ s.phase = .text) (hn : chunkOk l s.argLen)
      (hsrc : s.inBounds s.args.src s.argLen) (hdst : s.inBounds s.args.dst s.argLen) :=
    hexec.trans (gcmTextCommand_of_inBounds ⟨hm, hp⟩ hn hsrc hdst)
  refine ⟨fun ho => ?_, fun hm hp hl hn => ?_, fun hm hp hn hb => ?_, fun hm hp hn hsrc hdst hlim => ?_,
    fun hm hp hn hsrc hdst hlim hv => ?_, fun d o hm hp hn hsrc hdst hlim hd ho => ?_⟩
  · exact hexec.trans (require_of_not ho)
  · exact hexec.trans ((require_of ⟨hm, hp⟩).trans (require_of_not fun h => hn (h hl)))
  · exact hexec.trans ((require_of ⟨hm, hp⟩).trans ((require_of hn).trans (require_of_not hb)))
  · exact raises_of_not_check (hchecked hm hp hn hsrc hdst) (Nat.not_le.mpr hlim)
  · exact faultsUnwritten_of_check (hchecked hm hp hn hsrc hdst) hlim hv
  · obtain rfl : o = xorBytes d (s.gcmStream s.argLen) := ho
    exact ⟨toReg 16 (s.ghashAbsorb (gcmCiphertext enc d (xorBytes d (s.gcmStream s.argLen)))),
      toReg_ghashAbsorb .., exec_of_check (hchecked hm hp hn hsrc hdst) hlim hd⟩

/-! # GCM_TAG and GCM_VERIFY (45_gcm.md R259, R260) -/

/-- Settles O25: the checks of the stream, the tag length and the destination, in this order, then the tag is
written. -/
theorem gcmTagRule : Obligations.GcmTagRule := by
  refine ⟨illegalOutside_table (.gcmTag 0), fun tl h => decode_tagWord h rfl rfl, fun s tl t ht => ?_⟩
  obtain rfl : t = tagLen tl := ht
  refine ⟨fun ho => ?_, fun hm ho ht => ?_, fun hm ho ht hb => ?_, fun hm ho ht hb => ?_⟩
  · exact require_of_not ho
  · exact (require_of ⟨hm, ho⟩).trans (require_of_not ht)
  · exact (require_of ⟨hm, ho⟩).trans ((require_of ht).trans (require_of_not hb))
  · exact (require_of ⟨hm, ho⟩).trans ((require_of ht).trans (require_of hb))

/-- In an open GCM stream and with an accepted tag length, GCM_VERIFY checks the tag's range, reads the tag, closes the
stream and compares. -/
theorem exec_gcmVerify {tl : Nat} (ho : s.isOpen .gcm) (ht : tagLenOk tl) :
    exec (.gcmVerify tl) s = require (s.inBounds s.args.tag (tagLen tl)) .bounds s
      (memRead s s.args.tag (tagLen tl) fun want =>
        require (constEq (s.gcmTagNow.take (tagLen tl)) want = true) .auth { s with phase := .done }
          (finish 0 { s with phase := .done })) :=
  (require_of ho).trans (require_of ht)

/-- Settles O26: the checks of the stream, the tag length and the range, in this order, then the tag is read and
compared, as an equality of strings of one length. -/
theorem gcmVerifyRule : Obligations.GcmVerifyRule := by
  refine ⟨illegalOutside_table (.gcmVerify 0), fun tl h => decode_tagWord h rfl rfl, fun s tl t ht => ?_⟩
  obtain rfl : t = tagLen tl := ht
  refine ⟨fun ho => ?_, fun hm ho ht => ?_, fun hm ho ht => ?_, fun hm ho ht hb hv => ?_,
    fun want full hm ho ht hb hwant hfull => ?_⟩
  · exact require_of_not ho
  · exact (require_of ⟨hm, ho⟩).trans (require_of_not ht)
  · exact raises_of_not_check (exec_gcmVerify ⟨hm, ho⟩ ht)
  · exact faultsUnwritten_of_check (exec_gcmVerify ⟨hm, ho⟩ ht) hb hv
  · obtain rfl : full = s.gcmTagNow := hfull
    have hexec := exec_of_check (exec_gcmVerify ⟨hm, ho⟩ ht) hb hwant
    have heq := constEq_iff_eq ((gcmTag_length s ht).trans (Memory.readBytes_length hwant).symm)
    exact ⟨fun h => hexec.trans (require_of (heq.mpr h)), fun h => hexec.trans (require_of_not (heq.not.mpr h))⟩

/-! # GCM_OPEN (45_gcm.md R261) -/

theorem gcmOpenTag_length (s : State) (a c : Bytes) : (s.gcmOpenTag a c).length = 16 :=
  gcmFullTag_length _ _ _ _ _ _ _ (ghash_length _ _ _ (zeros_length 16))

/-- The four ranges of GCM_OPEN lie inside DMEM. -/
abbrev State.gcmOpenInBounds (s : State) (tl : Nat) : Prop :=
  s.inBounds s.args.aad s.argAadLen ∧ s.inBounds s.args.src s.argLen ∧ s.inBounds s.args.tag (tagLen tl) ∧
    s.inBounds s.args.dst s.argLen

/-- With an expanded key and an accepted nonce and tag length, GCM_OPEN checks its ranges, reads the AAD, the ciphertext
and the tag, compares, and writes the plaintext. -/
theorem exec_gcmOpen {tl : Nat} (hk : s.ksv = true) (hn : s.gcmNonceOk) (ht : tagLenOk tl) :
    exec (.gcmOpen tl) s = require (s.gcmOpenInBounds tl) .bounds s
      (memRead s s.args.aad s.argAadLen fun a => memRead s s.args.src s.argLen fun c =>
        memRead s s.args.tag (tagLen tl) fun want =>
        require (constEq ((s.gcmOpenTag a c).take (tagLen tl)) want = true) .auth s
          (finishWrite s.argLen s.args.dst (xorBytes c (keystreamSlice (gcmKs s.rk.toList s.nr s.newJ0) 0 s.argLen))
            s)) :=
  (require_of hk).trans ((require_of hn).trans (require_of ht))

/-- Settles O27: the checks of the schedule, the nonce, the tag length and the ranges, in this order; then the AAD, the
ciphertext and the tag are read, and the plaintext is written if the tags are equal. -/
theorem gcmOpenRule : Obligations.GcmOpenRule := by
  refine ⟨illegalOutside_table (.gcmOpen 0), fun tl h => decode_tagWord h rfl rfl,
    fun s tl t na n bounds ht hna hn hbounds => ?_⟩
  obtain rfl : t = tagLen tl := ht
  obtain rfl : na = s.argAadLen := hna
  obtain rfl : n = s.argLen := hn
  obtain rfl : bounds = s.gcmOpenInBounds tl := propext hbounds
  refine ⟨fun hk => ?_, fun hk hn => ?_, fun hk hlo hhi ht => ?_, fun hk hlo hhi ht => ?_,
    fun hk hlo hhi ht hb hv => ?_, fun a c want h j0 full hk hlo hhi ht hb ha hc hwant hh hj0 hfull => ?_⟩
  · exact require_of_not (by simp [hk])
  · exact (require_of hk).trans (require_of_not hn)
  · exact (require_of hk).trans ((require_of ⟨hlo, hhi⟩).trans (require_of_not ht))
  · exact raises_of_not_check (exec_gcmOpen hk ⟨hlo, hhi⟩ ht)
  · refine (exec_gcmOpen hk ⟨hlo, hhi⟩ ht).trans ((require_of hb).trans (memRead_eq_fault ?_))
    refine hv.imp_right fun hv _ => memRead_eq_fault ?_
    exact hv.imp_right fun htag _ => memRead_of_none htag
  · obtain rfl : j0 = s.newJ0 := by rw [hj0, hh]; rfl
    obtain rfl : full = s.gcmOpenTag a c := by
      rw [hfull, hh, State.gcmOpenTag, Memory.readBytes_length ha, Memory.readBytes_length hc]
      rfl
    have hexec := (exec_of_check (exec_gcmOpen hk ⟨hlo, hhi⟩ ht) hb ha).trans
      ((memRead_of hc).trans (memRead_of hwant))
    have hlen : ((s.gcmOpenTag a c).take (tagLen tl)).length = want.length :=
      (List.length_take_of_le (gcmOpenTag_length s a c ▸ tagLen_le ht)).trans (Memory.readBytes_length hwant).symm
    have heq := constEq_iff_eq hlen
    exact ⟨fun h => hexec.trans (require_of (heq.mpr h)), fun h => hexec.trans (require_of_not (heq.not.mpr h))⟩

/-! # A stream and GCM_OPEN (45_gcm.md R263) -/

/-- In the state t, a GCM stream that was begun in s has absorbed the block string x, of `lena` bytes of AAD and `lenc`
bytes of ciphertext before their padding. -/
structure GcmAbsorbed (s t : State) (x : Bytes) (lena lenc : Nat) : Prop where
  rk : t.rk = s.rk
  nr : t.nr = s.nr
  h : t.ctx.h.toList = s.newH
  j0 : t.ctx.j0.toList = s.newJ0
  y : t.ctx.y.toList = ghash s.newH (zeros 16) x
  lena : t.ctx.lena = lena
  lenc : t.ctx.lenc = lenc
  blocks : x.length % 16 = 0

section
variable {u : State} {x : Bytes} {lena lenc : Nat}

theorem gcmAbsorbed_of_gcmInit (h : exec .gcmInit s = .next t) (ht : t.errc = .none) : GcmAbsorbed s t [] 0 0 := by
  obtain ⟨-, h⟩ := require_next_of_errc h ht
  obtain ⟨-, h⟩ := require_next_of_errc h ht
  obtain rfl := finish_next h
  exact ⟨rfl, rfl, toReg_newH s, toReg_newJ0 s, toReg_zeros 16, rfl, rfl, rfl⟩

/-- The host's writes of the argument registers between two commands leave the stream. -/
theorem GcmAbsorbed.withArgs (h : GcmAbsorbed s t x lena lenc) (args : ArgRegs) :
    GcmAbsorbed s { t with args := args } x lena lenc :=
  { h with }

/-- Y after one more chunk is the GHASH of the longer block string. -/
theorem GcmAbsorbed.ghashAbsorb (h : GcmAbsorbed s t x lena lenc) (d : Bytes) :
    (toReg 16 (t.ghashAbsorb d)).toList = ghash s.newH (zeros 16) (x ++ pad16 d) := by
  rw [toReg_ghashAbsorb, h.h, h.y, ghash_append_blocks _ _ _ _ h.blocks]

theorem GcmAbsorbed.append_pad16 (h : GcmAbsorbed s t x lena lenc) (d : Bytes) : (x ++ pad16 d).length % 16 = 0 := by
  have hx := h.blocks
  have hd := pad16_length d
  rw [List.length_append]
  omega

theorem GcmAbsorbed.gcmAad {l : Bool} (h : GcmAbsorbed s t x lena lenc) (hexec : exec (.gcmAad l) t = .next u)
    (hu : u.errc = .none) :
    ∃ a, t.Holds t.args.src t.argLen a ∧ GcmAbsorbed s u (x ++ pad16 a) (lena + a.length) lenc := by
  obtain ⟨-, hexec⟩ := require_next_of_errc hexec hu
  obtain ⟨-, hexec⟩ := require_next_of_errc hexec hu
  obtain ⟨-, hexec⟩ := require_next_of_errc hexec hu
  obtain ⟨-, hexec⟩ := require_next_of_errc hexec hu
  obtain ⟨a, ha, hlen, hexec⟩ := memRead_next hexec
  obtain rfl := finish_next hexec
  refine ⟨a, ha, ⟨h.rk, h.nr, h.h, h.j0, h.ghashAbsorb a, ?_, h.lenc, h.append_pad16 a⟩⟩
  rw [hlen, ← h.lena]
  rfl

theorem GcmAbsorbed.gcmText {enc l : Bool} (h : GcmAbsorbed s t x lena lenc)
    (hexec : exec (if enc then .gcmEnc l else .gcmDec l) t = .next u) (hu : u.errc = .none) :
    ∃ d o, t.Holds t.args.src t.argLen d ∧ u.Holds t.args.dst t.argLen o ∧
      GcmAbsorbed s u (x ++ pad16 (gcmCiphertext enc d o)) lena (lenc + (gcmCiphertext enc d o).length) := by
  rw [exec_gcmText] at hexec
  obtain ⟨e, he, rfl⟩ | ⟨-, -, -, d, o, hd, hdlen, rfl, hexec⟩ := gcmTextCommand_next hexec
  · exact absurd hu he
  obtain rfl := finishWrite_next hexec
  have holen : (xorBytes d (t.gcmStream t.argLen)).length = t.argLen := xorBytes_keystream_length _ _ hdlen
  have ho := Memory.readBytes_write t.dmem t.args.dst.toNat (xorBytes d (t.gcmStream t.argLen))
  rw [holen] at ho
  refine ⟨d, _, hd, ho, ⟨h.rk, h.nr, h.h, h.j0, h.ghashAbsorb _, h.lena, ?_, h.append_pad16 _⟩⟩
  rw [gcmCiphertext_length hdlen holen, ← h.lenc]
  rfl

/-- The tag of a stream that has absorbed one AAD and one ciphertext is the tag of GCM_OPEN for them. -/
theorem GcmAbsorbed.gcmTagNow {a c : Bytes} (h : GcmAbsorbed s t (pad16 a ++ pad16 c) a.length c.length) :
    t.gcmTagNow = s.gcmOpenTag a c := by
  rw [State.gcmTagNow, State.gcmOpenTag, h.rk, h.nr, h.h, h.j0, h.y, h.lena, h.lenc]

end

/-- Settles O28: the three commands absorb the AAD and the ciphertext, and the two strings read are the ones given. -/
theorem gcmOpenTagMatchesStream : Obligations.GcmOpenTagMatchesStream := by
  intro s s1 s2 s3 i a d o ra ca rt ct dt hi hinit hs1 haad hs2 htext hs3 ha hd ho
  obtain ⟨enc, rfl⟩ : ∃ enc : Bool, i = if enc then .gcmEnc true else .gcmDec true := by
    rcases hi with rfl | rfl
    · exact ⟨true, rfl⟩
    · exact ⟨false, rfl⟩
  obtain ⟨a', ha', h2⟩ := ((gcmAbsorbed_of_gcmInit hinit hs1).withArgs _).gcmAad haad hs2
  obtain ⟨d', o', hd', ho', h3⟩ := (h2.withArgs _).gcmText htext hs3
  obtain rfl : a' = a := Option.some.inj (ha'.symm.trans ha)
  obtain rfl : d' = d := Option.some.inj (hd'.symm.trans hd)
  obtain rfl : o' = o := Option.some.inj (ho'.symm.trans ho)
  rw [Nat.zero_add, Nat.zero_add, List.nil_append] at h3
  rw [h3.gcmTagNow]
  cases enc <;> rfl

end Sys2Proof.Machine

namespace Sys2Proof.Machine
open Sys2Proof

/-! Proofs of the family 46_poly1305_aead.md: the one-time key and the tags, and the rules of POLY1305 and of the
ChaCha20-Poly1305 commands. -/

variable {s : State}

/-! # The one-time key and the tag (46_poly1305_aead.md R290, R291) -/

/-- Each half of a key fits a register of 128 bits. -/
theorem le_slice_lt {i j : Nat} (h : j - i ≤ 16) (b : Bytes) : le (slice b i j) < 2 ^ 128 := by
  have hlen : (slice b i j).length ≤ 16 := (slice_length b i j).trans_le ((Nat.min_le_left ..).trans h)
  calc le (slice b i j) < 256 ^ (slice b i j).length := le_lt _
    _ ≤ 256 ^ 16 := Nat.pow_le_pow_right (by decide) hlen
    _ = 2 ^ 128 := by norm_num

/-- The clamp in 128 bits loses nothing of the first half of a key. -/
theorem toNat_polyR (k : Bytes) :
    (polyR k).toNat = le (slice k 0 16) &&& 0x0ffffffc0ffffffc0ffffffc0fffffff := by
  rw [polyR, BitVec.toNat_and, BitVec.toNat_ofNat, Nat.mod_eq_of_lt (le_slice_lt le_rfl k)]
  rfl

theorem toNat_polyS (k : Bytes) : (polyS k).toNat = le (slice k 16 32) :=
  Nat.mod_eq_of_lt (le_slice_lt le_rfl k)

theorem poly1305Mac_eq (k m : Bytes) :
    poly1305Mac k m = leBytes 16 ((polyAbsorb 0 (polyR k) m + le (slice k 16 32)) % 2 ^ 128) := by
  rw [poly1305Mac, polyFinish, toNat_polyS]

theorem State.cpTagNow_length (s : State) : s.cpTagNow.length = 16 := polyFinish_length ..

theorem cpTagOf_length (sk sn a c : Bytes) : (cpTagOf sk sn a c).length = 16 := polyFinish_length ..

/-- A command that ends with a tag comparison goes on exactly where the two tags are equal (60_exceptions.md R335). -/
theorem exec_of_constEq {i : Instr} {tag want : Bytes} {e : ErrCode} {u : State} {k : Result}
    (h : exec i s = require (constEq tag want = true) e u k) (hlen : tag.length = want.length) :
    (tag = want → exec i s = k) ∧ (tag ≠ want → exec i s = raiseErr e u) := by
  have heq := constEq_iff_eq hlen
  exact ⟨fun htag => h.trans (require_of (heq.mpr htag)), fun htag => h.trans (require_of_not (heq.not.mpr htag))⟩

/-! # POLY1305 (46_poly1305_aead.md R292) -/

/-- Settles O29: the check of the three ranges, then the key and the message are read and the MAC written. -/
theorem poly1305Rule : Obligations.Poly1305Rule := by
  refine ⟨illegalOutside_table .poly1305, decodeOfEncode .poly1305 rfl, fun s n hn => ?_⟩
  obtain rfl : n = s.argLen := hn
  refine ⟨fun hb => ?_, fun hkey hsrc hdst hv => ?_, fun k m hkey hsrc hdst hk hm => ?_⟩
  · exact require_of_not hb
  · exact (require_of ⟨hkey, hsrc, hdst⟩).trans (memRead_eq_fault (hv.imp_right fun h _ => memRead_of_none h))
  · rw [← poly1305Mac_eq]
    exact (require_of ⟨hkey, hsrc, hdst⟩).trans ((memRead_of hk).trans (memRead_of hm))

/-! # CP_INIT (46_poly1305_aead.md R293) -/

theorem toReg_newStreamKey (s : State) (x : Bool) : (toReg 32 (s.newStreamKey x)).toList = s.newStreamKey x :=
  toReg_toList (streamKey_length x _ _ s.key.length_toList)

theorem toReg_newStreamNonce (s : State) (x : Bool) :
    (toReg 12 (s.newStreamNonce x)).toList = s.newStreamNonce x :=
  toReg_toList (streamNonce_length x _ s.nonce.length_toList)

/-- Settles O30: the checks of the key and the nonce, in this order; the derived key and nonce fill SKEY and SNONCE
exactly, so that the one-time key is that of the two registers. -/
theorem cpInitRule : Obligations.CpInitRule := by
  refine ⟨illegalOutside_table (.cpInit false), decodeOfEncode (.cpInit false) rfl,
    decodeOfEncode (.cpInit true) rfl, fun s x => ⟨fun hk => ?_, fun hk hn => ?_, fun hk hn => ?_⟩⟩
  · exact require_of_not hk
  · exact (require_of hk).trans (require_of_not hn)
  · refine ⟨toReg 32 (s.newStreamKey x), toReg 12 (s.newStreamNonce x),
      oneTimeKey (s.newStreamKey x) (s.newStreamNonce x), _, _, toReg_newStreamKey s x, toReg_newStreamNonce s x, ?_,
      toNat_polyR _, toNat_polyS _, (require_of hk).trans (require_of hn)⟩
    rw [toReg_newStreamKey, toReg_newStreamNonce, oneTimeKey]

/-! # CP_AAD (46_poly1305_aead.md R294) -/

/-- In a CP stream that takes AAD, and with an accepted length and a range inside DMEM, CP_AAD checks LENA, reads the
chunk and absorbs it. -/
theorem exec_cpAad {l : Bool} (ho : s.takesAad .cp) (hn : chunkOk l s.argLen)
    (hsrc : s.inBounds s.args.src s.argLen) :
    exec (.cpAad l) s = require (s.ctx.lena + s.argLen ≤ cpAadMax) .limit s
      (memRead s s.args.src s.argLen fun a => finish 0 { s with
        phase := phaseAfterAad l s.phase,
        ctx := { s.ctx with acc := s.polyAbsorbed a, lena := s.ctx.lena + s.argLen } }) :=
  (require_of ho).trans ((require_of hn).trans (require_of hsrc))

/-- Settles O31: the checks of the stream, the length, the range and the limit, in this order, then the chunk is read
and absorbed. -/
theorem cpAadRule : Obligations.CpAadRule := by
  refine ⟨illegalOutside_table (.cpAad false), decodeOfEncode (.cpAad false) rfl, decodeOfEncode (.cpAad true) rfl,
    fun s l n hn => ?_⟩
  obtain rfl : n = s.argLen := hn
  refine ⟨fun ho => ?_, fun hm hp hl hn => ?_, fun hm hp hn hb => ?_, fun hm hp hn hsrc hlim => ?_,
    fun hm hp hn hsrc hlim hv => ?_, fun a hm hp hn hsrc hlim ha => ?_⟩
  · exact require_of_not ho
  · exact (require_of ⟨hm, hp⟩).trans (require_of_not fun h => hn (h hl))
  · exact (require_of ⟨hm, hp⟩).trans ((require_of hn).trans (require_of_not hb))
  · exact raises_of_not_check (exec_cpAad ⟨hm, hp⟩ hn hsrc) (Nat.not_le.mpr hlim)
  · exact faultsUnwritten_of_check (exec_cpAad ⟨hm, hp⟩ hn hsrc) hlim hv
  · rw [Succeeds, exec_of_check (exec_cpAad ⟨hm, hp⟩ hn hsrc) hlim ha, hp]
    rfl

/-! # CP_ENC and CP_DEC (46_poly1305_aead.md R295, R296) -/

/-- The two text commands differ in which string is the ciphertext: the output o of CP_ENC, the input d of CP_DEC. -/
theorem exec_cpText (enc l : Bool) (s : State) :
    exec (if enc then .cpEnc l else .cpDec l) s = cpTextCommand (fun d o => if enc then o else d) l s := by
  cases enc <;> rfl

/-- In a CP stream that takes text, and with an accepted length and both ranges inside DMEM, a text command checks KIDX,
reads the chunk, absorbs its ciphertext and writes its XOR. -/
theorem cpTextCommand_of_inBounds {f : Bytes → Bytes → Bytes} {l : Bool} (ho : s.takesText .cp)
    (hn : chunkOk l s.argLen) (hsrc : s.inBounds s.args.src s.argLen) (hdst : s.inBounds s.args.dst s.argLen) :
    cpTextCommand f l s = require (s.ctx.kidx + s.argLen ≤ chachaKsLen) .limit s
      (memRead s s.args.src s.argLen fun d =>
        let o := xorBytes d (s.chachaStream s.argLen)
        finishWrite s.argLen s.args.dst o { s with
          phase := phaseAfterText l,
          ctx := { s.ctx with
            acc := s.polyAbsorbed (f d o), kidx := s.ctx.kidx + s.argLen, lenc := s.ctx.lenc + s.argLen } }) :=
  (require_of ho).trans ((require_of hn).trans (require_of ⟨hsrc, hdst⟩))

/-- Settles O32: the checks of the stream, the length, the ranges and the limit, in this order, then the chunk is read,
its ciphertext absorbed and its XOR written. -/
theorem cpTextRules : Obligations.CpTextRules := by
  refine ⟨illegalOutside_table (.cpEnc false), illegalOutside_table (.cpDec false),
    decodeOfEncode (.cpEnc false) rfl, decodeOfEncode (.cpEnc true) rfl, decodeOfEncode (.cpDec false) rfl,
    decodeOfEncode (.cpDec true) rfl, fun s l enc i n hn hi => ?_⟩
  obtain rfl : n = s.argLen := hn
  have hexec : exec i s = cpTextCommand (fun d o => if enc then o else d) l s := hi ▸ exec_cpText enc l s
  have hchecked (hm : s.mode = .cp) (hp : s.phase = .aad ∨ s.phase = .text) (hn : chunkOk l s.argLen)
      (hsrc : s.inBounds s.args.src s.argLen) (hdst : s.inBounds s.args.dst s.argLen) :=
    hexec.trans (cpTextCommand_of_inBounds ⟨hm, hp⟩ hn hsrc hdst)
  refine ⟨fun ho => ?_, fun hm hp hl hn => ?_, fun hm hp hn hb => ?_, fun hm hp hn hsrc hdst hlim => ?_,
    fun hm hp hn hsrc hdst hlim hv => ?_, fun d o hm hp hn hsrc hdst hlim hd ho => ?_⟩
  · exact hexec.trans (require_of_not ho)
  · exact hexec.trans ((require_of ⟨hm, hp⟩).trans (require_of_not fun h => hn (h hl)))
  · exact hexec.trans ((require_of ⟨hm, hp⟩).trans ((require_of hn).trans (require_of_not hb)))
  · exact raises_of_not_check (hchecked hm hp hn hsrc hdst) (Nat.not_le.mpr hlim)
  · exact faultsUnwritten_of_check (hchecked hm hp hn hsrc hdst) hlim hv
  · obtain rfl : o = xorBytes d (s.chachaStream s.argLen) := ho
    exact exec_of_check (hchecked hm hp hn hsrc hdst) hlim hd

/-! # CP_TAG and CP_VERIFY (46_poly1305_aead.md R297, R298) -/

/-- Settles O33: the checks of the stream and the destination, in this order, then the tag is written. -/
theorem cpTagRule : Obligations.CpTagRule := by
  refine ⟨illegalOutside_table .cpTag, decodeOfEncode .cpTag rfl, fun s => ⟨fun ho => ?_, fun hm ho hb => ?_,
    fun hm ho hb => ?_⟩⟩
  · exact require_of_not ho
  · exact (require_of ⟨hm, ho⟩).trans (require_of_not hb)
  · exact (require_of ⟨hm, ho⟩).trans (require_of hb)

/-- In an open CP stream, CP_VERIFY checks the tag's range, reads the tag, closes the stream and compares. -/
theorem exec_cpVerify (ho : s.isOpen .cp) :
    exec .cpVerify s = require (s.inBounds s.args.tag 16) .bounds s
      (memRead s s.args.tag 16 fun want =>
        require (constEq s.cpTagNow want = true) .auth { s with phase := .done }
          (finish 0 { s with phase := .done })) :=
  require_of ho

/-- Settles O34: the checks of the stream and the range, in this order, then the tag is read and compared, as an
equality of strings of one length. -/
theorem cpVerifyRule : Obligations.CpVerifyRule := by
  refine ⟨illegalOutside_table .cpVerify, decodeOfEncode .cpVerify rfl, fun s => ⟨fun ho => ?_, fun hm ho => ?_,
    fun hm ho hb hv => ?_, fun want tag hm ho hb hwant htag => ?_⟩⟩
  · exact require_of_not ho
  · exact raises_of_not_check (exec_cpVerify ⟨hm, ho⟩)
  · exact faultsUnwritten_of_check (exec_cpVerify ⟨hm, ho⟩) hb hv
  · obtain rfl : tag = s.cpTagNow := htag
    have hexec := exec_of_check (exec_cpVerify ⟨hm, ho⟩) hb hwant
    exact exec_of_constEq hexec (s.cpTagNow_length.trans (Memory.readBytes_length hwant).symm)

/-! # CP_OPEN (46_poly1305_aead.md R291, R299) -/

/-- The four ranges of CP_OPEN lie inside DMEM. -/
abbrev State.cpOpenInBounds (s : State) : Prop :=
  s.inBounds s.args.aad s.argAadLen ∧ s.inBounds s.args.src s.argLen ∧ s.inBounds s.args.tag 16 ∧
    s.inBounds s.args.dst s.argLen

/-- With a 32-byte key and a nonce of the stream's length, CP_OPEN checks its ranges, reads the AAD, the ciphertext and
the tag, compares, and writes the plaintext. -/
theorem exec_cpOpen {x : Bool} (hk : s.klen = .k32) (hn : s.streamNonceOk x) :
    exec (.cpOpen x) s = require s.cpOpenInBounds .bounds s
      (memRead s s.args.aad s.argAadLen fun a => memRead s s.args.src s.argLen fun c =>
        memRead s s.args.tag 16 fun want =>
        require (constEq (cpTagOf (s.newStreamKey x) (s.newStreamNonce x) a c) want = true) .auth s
          (finishWrite s.argLen s.args.dst
            (xorBytes c (keystreamSlice (chachaKs (s.newStreamKey x) (s.newStreamNonce x)) 64 s.argLen)) s)) :=
  (require_of hk).trans (require_of hn)

/-- Settles O35: the checks of the key, the nonce and the ranges, in this order; then the AAD, the ciphertext and the
tag are read, and the plaintext is written if the tags are equal. -/
theorem cpOpenRule : Obligations.CpOpenRule := by
  refine ⟨illegalOutside_table (.cpOpen false), decodeOfEncode (.cpOpen false) rfl,
    decodeOfEncode (.cpOpen true) rfl, fun s x na n bounds hna hn hbounds => ?_⟩
  obtain rfl : na = s.argAadLen := hna
  obtain rfl : n = s.argLen := hn
  obtain rfl : bounds = s.cpOpenInBounds := propext hbounds
  refine ⟨fun hk => ?_, fun hk hn => ?_, fun hk hn => ?_, fun hk hn hb hv => ?_,
    fun a c want sk sn tag hk hn hb ha hc hwant hsk hsn htag => ?_⟩
  · exact require_of_not hk
  · exact (require_of hk).trans (require_of_not hn)
  · exact raises_of_not_check (exec_cpOpen hk hn)
  · refine (exec_cpOpen hk hn).trans ((require_of hb).trans (memRead_eq_fault ?_))
    refine hv.imp_right fun hv _ => memRead_eq_fault ?_
    exact hv.imp_right fun htag _ => memRead_of_none htag
  · obtain rfl : sk = s.newStreamKey x := hsk
    obtain rfl : sn = s.newStreamNonce x := hsn
    obtain rfl : tag = cpTagOf (s.newStreamKey x) (s.newStreamNonce x) a c := by
      rw [htag, cpTagOf, oneTimeKey, cpLengths, Memory.readBytes_length ha, Memory.readBytes_length hc,
        List.append_assoc _ (leBytes 8 _)]
    have hexec := (exec_of_check (exec_cpOpen hk hn) hb ha).trans ((memRead_of hc).trans (memRead_of hwant))
    exact exec_of_constEq hexec ((cpTagOf_length ..).trans (Memory.readBytes_length hwant).symm)

end Sys2Proof.Machine

namespace Sys2Proof.Machine
open Sys2Proof

/-! Proofs of the family 60_exceptions.md: what an error changes, and the tag comparison. -/

variable {s t u : State}

/-! # What an error changes (60_exceptions.md R333) -/

/-- `ErrorOn s i e u`: where the command i, executed in the state s, ends with the error code e, it leaves everything
but ERRC, OUTLEN and BUSY as it is in u. AUTH and PAD arise from the named commands only. -/
inductive ErrorOn (s : State) : Instr → ErrCode → State → Prop
  | unchanged {i e} (hauth : e ≠ .auth) (hpad : e ≠ .pad) : ErrorOn s i e s
  | openAuth {i} (hi : (∃ tl, i = .gcmOpen tl) ∨ ∃ x, i = .cpOpen x) : ErrorOn s i .auth s
  | verifyAuth {i} (hi : (∃ tl, i = .gcmVerify tl) ∨ i = .cpVerify) : ErrorOn s i .auth { s with phase := .done }
  | badPad : ErrorOn s (.cbcDec true true) .pad { s with phase := .done }

/-- r is an answer of the command i in the state s: a next state with an error code is one that `ErrorOn` gives,
completed with that code and OUTLEN = 0. -/
def EndsWithError (s : State) (i : Instr) (r : Result) : Prop :=
  ∀ t, r = .next t → t.errc ≠ .none → ∃ e u, ErrorOn s i e u ∧ t = u.completed e 0

section
variable {i : Instr} {e : ErrCode} {k : Result}

theorem EndsWithError.finish {n : Nat} : EndsWithError s i (finish n u) := fun _ ht herr =>
  absurd (by rw [finish_next ht, State.completed_errc]) herr

theorem EndsWithError.finishWrite {n : Nat} {a : U32} {v : Bytes} : EndsWithError s i (finishWrite n a v u) :=
  .finish

/-- A check with one of the errors that the rule treats apart. -/
theorem EndsWithError.requireOr {c : Prop} [Decidable c] (h : ¬ c → ErrorOn s i e u)
    (hk : EndsWithError s i k) : EndsWithError s i (require c e u k) := fun t ht herr => by
  rcases require_next ht with ⟨_, ht⟩ | ⟨hc, ht⟩
  · exact hk t ht herr
  · exact ⟨e, u, h hc, ht⟩

theorem EndsWithError.require {c : Prop} [Decidable c] (hk : EndsWithError s i k)
    (hauth : e ≠ .auth := by decide) (hpad : e ≠ .pad := by decide) : EndsWithError s i (require c e s k) :=
  .requireOr (fun _ => .unchanged hauth hpad) hk

theorem EndsWithError.memRead {a : U32} {n : Nat} {k : Bytes → Result} (hk : ∀ v, EndsWithError s i (k v)) :
    EndsWithError s i (memRead s a n k) := fun t ht herr => by
  obtain ⟨v, _, _, ht⟩ := memRead_next ht
  exact hk v t ht herr

end

theorem endsWithError_aesBlock {i : Instr} {f : Bytes → Bytes} : EndsWithError s i (aesBlockCommand f s) :=
  .require (.require (.memRead fun _ => .finishWrite))

theorem endsWithError_gcmText {i : Instr} (f : Bytes → Bytes → Bytes) (last : Bool) :
    EndsWithError s i (gcmTextCommand f last s) :=
  .require (.require (.require (.require (.memRead fun _ => .finishWrite))))

theorem endsWithError_cpText {i : Instr} (f : Bytes → Bytes → Bytes) (last : Bool) :
    EndsWithError s i (cpTextCommand f last s) :=
  .require (.require (.require (.require (.memRead fun _ => .finishWrite))))

/-- The padding check of CBC_DEC can fail only with L = P = 1. -/
theorem errorOn_cbcDec {last pad : Bool} {p : Prop} (h : ¬ ((last && pad) = true → p)) :
    ErrorOn s (.cbcDec last pad) .pad { s with phase := .done } := by
  obtain ⟨hpadded, _⟩ := Classical.not_imp.mp h
  obtain ⟨rfl, rfl⟩ := (Bool.and_eq_true ..).mp hpadded
  exact .badPad

/-- Every error of every command: its checks in the order of its rule, its reads, and what each failure leaves. -/
theorem exec_endsWithError (i : Instr) (s : State) : EndsWithError s i (exec i s) :=
  match i with
  | .nop | .zeroize => .finish
  | .keyld _ | .nonceld => .require (.require (.memRead fun _ => .finish))
  | .aesKeyexp => .require .finish
  | .aesEnc | .aesDec => endsWithError_aesBlock
  | .chachaBlk => .require (.require (.require .finishWrite))
  | .hchacha => .require (.require (.memRead fun _ => .finishWrite))
  | .chachaInit _ => .require (.require (.require .finish))
  | .chachaXor | .ctrXor => .require (.require (.require (.memRead fun _ => .finishWrite)))
  | .ctrInit _ => .require (.require (.require (.require .finish)))
  | .cbcInit | .gcmInit | .cpInit _ => .require (.require .finish)
  | .cbcEnc _ _ => .require (.require (.require (.memRead fun _ => .finishWrite)))
  | .cbcDec _ _ =>
    .require (.require (.require (.require (.memRead fun _ => .requireOr errorOn_cbcDec .finishWrite))))
  | .gf128Mul | .poly1305 => .require (.memRead fun _ => .memRead fun _ => .finishWrite)
  | .gcmAad _ | .cpAad _ => .require (.require (.require (.require (.memRead fun _ => .finish))))
  | .gcmEnc last => endsWithError_gcmText (fun _ o => o) last
  | .gcmDec last => endsWithError_gcmText (fun d _ => d) last
  | .cpEnc last => endsWithError_cpText (fun _ o => o) last
  | .cpDec last => endsWithError_cpText (fun d _ => d) last
  | .gcmTag _ => .require (.require (.require .finishWrite))
  | .gcmVerify tl =>
    .require (.require (.require (.memRead fun _ => .requireOr (fun _ => .verifyAuth (.inl ⟨tl, rfl⟩)) .finish)))
  | .gcmOpen tl =>
    .require (.require (.require (.require (.memRead fun _ => .memRead fun _ => .memRead fun _ =>
      .requireOr (fun _ => .openAuth (.inl ⟨tl, rfl⟩)) .finishWrite))))
  | .cpTag => .require (.require .finishWrite)
  | .cpVerify => .require (.require (.memRead fun _ => .requireOr (fun _ => .verifyAuth (.inr rfl)) .finish))
  | .cpOpen x =>
    .require (.require (.require (.memRead fun _ => .memRead fun _ => .memRead fun _ =>
      .requireOr (fun _ => .openAuth (.inr ⟨x, rfl⟩)) .finishWrite)))

/-- Settles O43: the engine's step on a word that decodes to no command is ILLEGAL, and `exec_endsWithError` says which
of four ways a command that fails ends in. -/
theorem errorsChangeNothingElse : Obligations.ErrorsChangeNothingElse := by
  refine ⟨fun s => engineStep_illegal, fun i s t h herr => ?_⟩
  obtain ⟨e, u, hon, rfl⟩ := exec_endsWithError i s t h herr
  cases hon with
  | unchanged hauth hpad => exact .inl ⟨rfl, fun he => absurd he hauth, hpad⟩
  | openAuth hi => exact .inl ⟨rfl, fun _ => hi, by simp⟩
  | verifyAuth hi => exact .inr (.inl ⟨rfl, hi⟩)
  | badPad => exact .inr (.inr ⟨rfl, rfl⟩)

/-! # The tag comparison (60_exceptions.md R335) -/

/-- Settles O36: ConstEq is equality of the strings, and equally long strings are equal where all their bytes are. -/
theorem tagCompareIsBytewiseEquality : Obligations.TagCompareIsBytewiseEquality := by
  intro a b hlen
  rw [constEq_iff_eq hlen]
  constructor
  · rintro rfl i _
    rfl
  · intro hbytes
    refine List.ext_getElem hlen fun i ha hb => ?_
    calc a[i] = byteAt a i := (List.getD_eq_getElem a 0 ha).symm
      _ = byteAt b i := hbytes i ha
      _ = b[i] := List.getD_eq_getElem b 0 hb

end Sys2Proof.Machine

namespace Sys2Proof.Machine
open Sys2Proof
variable {s : State} {e : Input} {rest : List Input}

/-! # The host while a command is in flight (70_reset_and_hazards.md R361, R370, R372) -/

/-- With BUSY = 1 the oldest event is taken before the engine's transition, but for a STATUS read when no BUSY = 1
answer is left. -/
theorem step_of_busy (hb : s.busy = true) (hi : s.inputs = e :: rest) (hp : e.readsStatus = true → s.pollsLeft ≠ 0) :
    step s = hostBusy e rest s := by
  have hturn : turn s = .host := by
    cases hr : e.readsStatus with
    | false => simp [turn, hi, hr]
    | true => simp [turn, hi, hp hr]
  rw [step, hturn]
  simp [hostStep, hi, hb]

/-- Settles O47: a reset is no STATUS read, so it is the step with BUSY = 1 too, and both kinds of host step take it by
`State.platformReset`. -/
theorem platformResetRestoresReset : Obligations.PlatformResetRestoresReset := by
  intro s rest hi
  refine ⟨{ s.platformReset with inputs := rest }, ?_, rfl⟩
  cases hb : s.busy with
  | false => exact step_of_idle hb hi
  | true => exact step_of_busy hb hi (by simp [Input.readsStatus])

/-! ## Single accesses -/

theorem readsStatus_read_iff {bits : Nat} {off : BitVec 17} :
    (Input.read bits off).readsStatus = true ↔ bits = 32 ∧ off = 0x004 := by
  rw [Input.readsStatus, decide_eq_true_iff, ← BitVec.toNat_inj]
  rfl

/-- A STATUS read with a BUSY = 1 answer left is a poll. -/
theorem step_of_busy_statusRead (hb : s.busy = true) (hi : s.inputs = .read 32 0x004 :: rest) (hp : s.pollsLeft ≠ 0) :
    step s = .next { s.polled with inputs := rest } := by
  rw [step_of_busy hb hi fun _ => hp, hostBusy, if_pos (readsStatus_read_iff.mpr ⟨rfl, rfl⟩)]

theorem not_runEnded_of_busy1 (h : s.lastAccess = .busy1) : ¬ s.runEnded := fun ⟨_, hlast⟩ => by simp [h] at hlast

/-- Settles O49: a STATUS read is `State.polled`, which records a BUSY = 1 answer, and `hostBusy` answers every other
access with the hazard. -/
theorem busyAccesses : Obligations.BusyAccesses := by
  intro s rest hb
  refine ⟨fun hi hp => ?status, fun t hi hp h => ?goesOn, fun bits off hi hne => ?read, fun bits off v hi => ?write⟩
  case status => exact ⟨busyStatusWord s.draws, busyStatusWord_bit0 _, step_of_busy_statusRead hb hi hp⟩
  case goesOn =>
    rw [step_of_busy_statusRead hb hi hp] at h
    exact Host.Outcome.next.inj h ▸ not_runEnded_of_busy1 rfl
  case read =>
    have hr : (Input.read bits off).readsStatus ≠ true := mt readsStatus_read_iff.mp hne
    rw [step_of_busy hb hi fun h => absurd h hr, hostBusy, if_neg hr]
  case write => exact step_of_busy hb hi (by simp [Input.readsStatus])

/-! ## The polling loop -/

/-- The answers to n polls from the state s on (10_state.md R35). -/
def pollAnswers (s : State) (n : Nat) : List U32 := (List.range n).map fun k => busyStatusWord (s.draws + k)

@[simp] theorem pollAnswers_length (s : State) (n : Nat) : (pollAnswers s n).length = n := by simp [pollAnswers]

theorem pollAnswers_succ (s : State) (n : Nat) :
    pollAnswers s (n + 1) = pollAnswers s n ++ [busyStatusWord (s.draws + n)] := by
  simp [pollAnswers, List.range_succ]

theorem bit0_of_mem_pollAnswers {n : Nat} {v : U32} (h : v ∈ pollAnswers s n) : v.getLsbD 0 = true := by
  obtain ⟨k, _, rfl⟩ := List.mem_map.mp h
  exact busyStatusWord_bit0 _

/-- n polls change nothing but the model's record. -/
theorem iterate_polled (s : State) (n : Nat) :
    State.polled^[n] s =
      { s with
        answers := s.answers ++ pollAnswers s n, lastAccess := if n = 0 then s.lastAccess else .busy1,
        draws := s.draws + n, pollsLeft := s.pollsLeft - n } := by
  induction n with
  | zero => simp [pollAnswers]
  | succ n ih =>
    rw [Function.iterate_succ_apply', ih, pollAnswers_succ, State.polled]
    simp [Nat.sub_sub, Nat.add_assoc]

theorem run_succ_of_next {M : Host.Core} {a b : M.State} (n : Nat) (h : M.step a = .next b) :
    M.run (n + 1) a = M.run n b := by
  rw [Host.Core.run, h]

/-- A run of a polling loop is as many polls as BUSY = 1 answers were drawn. -/
theorem run_pollsLeft (hb : s.busy = true) (hi : s.inputs = .wait :: rest) :
    core.run s.pollsLeft s = .next (State.polled^[s.pollsLeft] s) := by
  induction hn : s.pollsLeft generalizing s with
  | zero => rfl
  | succ n ih =>
    have hstep : core.step s = .next s.polled := step_of_busy hb hi (by simp [hn])
    exact (run_succ_of_next n hstep).trans (ih (s := s.polled) hb hi (by simp [hn]))

/-- Settles O55: the run is `State.polled` iterated, and it leaves no BUSY = 1 answer, so that `turn` is the
engine's. -/
theorem pollingEnds : Obligations.PollingEnds := by
  intro s rest hb hi
  refine ⟨State.polled^[s.pollsLeft] s, pollAnswers s s.pollsLeft, run_pollsLeft hb hi, ?turn, pollAnswers_length _ _,
    fun _ => bit0_of_mem_pollAnswers, ?frame⟩
  case turn => simp [iterate_polled, turn, hi, hb, Input.readsStatus]
  case frame => simp [iterate_polled]

end Sys2Proof.Machine
